-- ==== Sys2Proof/Word.lean ====
section
/-! DEFINITION. The word types of VS-CORE (00_scope R9, R10, 20_memory R50) and the names of its channel
positions (41_channelmap R130). Types and constants only; every computation stands under Machine/. -/

namespace Sys2Proof

/-- A word is 32 bits, bit 31 the most significant (R9). -/
abbrev Word := BitVec 32

/-- A byte of a byte-serial transport (R52). -/
abbrev Byte := BitVec 8

/-- An IEEE 754 binary32 bit pattern (R10, R100). -/
abbrev F32 := BitVec 32

/-- One complex bin: real part, then imaginary part (R10, R50). -/
structure C32 where
  re : F32
  im : F32
deriving DecidableEq, Repr, Inhabited

/-- `+0.0` (R10). -/
abbrev plusZero : F32 := 0x00000000#32
/-- `-0.0` (R10). -/
abbrev minusZero : F32 := 0x80000000#32
/-- `1.0` (R10). -/
abbrev plusOne : F32 := 0x3F800000#32
/-- `-1.0` (R10). -/
abbrev minusOne : F32 := 0xBF800000#32
/-- `2.0`, used by the test backend (R113). -/
abbrev plusTwo : F32 := 0x40000000#32

/-- The named channel positions, in the order of R130 (codes 0 to 17), and the six reserved places `ext 0` to
`ext 5` (codes 18 to 23) that the parameter `POS_EXT` may supply. -/
inductive Position where
  | FL | FR | FC | LFE | RL | RR | FLC | FRC | RC | SL | SR | TFL | TFR | TFC | TC | TRL | TRR | TRC
  | ext (k : Fin 6)
deriving DecidableEq, Repr

end Sys2Proof
end

