-- ==== Sys2Proof/Syntax.lean ====
section
/-! DEFINITION. The commands of VS-CORE, one constructor per row of spec/opcode_table.json (30_encoding R70 to R74),
the packets that carry them, and the status registers (10_state R26). A command is its header operand `ARG` and its
payload, both as received: a command whose must-be-zero bits are set or whose payload has the wrong length is that
command still, and its meaning raises the error (R85). -/

namespace Sys2Proof

/-- The operand field `ARG` of a header word (R71). -/
abbrev Arg := BitVec 24

/-- A command packet: its header word and its payload, whose length is `PLEN` (R70). -/
structure Packet where
  header : Word
  payload : List Word
deriving DecidableEq, Repr

/-- The status registers of R26. -/
inductive StatusReg where
  | phase
  | err
  | errInfo
  | blockSize
  | maxChannels
  | maxFftLen
  | hasResampler
  | samplesRequired
  | sampleLatency
  | sampleRate
  | channelCount
  | available
  | position (i : Fin 24)
deriving DecidableEq, Repr

/-- The instructions: the ten commands of R74 and the 36 rows of the table that fix a QUERY header whole. -/
inductive Instr where
  /-- CONSTRUCT; `l` is `ARG`, the frames per channel (R150) -/
  | construct (l : Arg) (payload : List Word)
  /-- RESET (R240) -/
  | reset (arg : Arg) (payload : List Word)
  /-- MAP_FIND (R136) -/
  | mapFind (arg : Arg) (payload : List Word)
  /-- MAP_FIND_MIRROR (R137) -/
  | mapFindMirror (arg : Arg) (payload : List Word)
  /-- ACC_ZERO (R195) -/
  | accZero (arg : Arg) (payload : List Word)
  /-- PROCESS_CHANNEL (R182) -/
  | processChannel (arg : Arg) (payload : List Word)
  /-- RAW_TRANSFORM (R196) -/
  | rawTransform (arg : Arg) (payload : List Word)
  /-- ACC_READ (R197) -/
  | accRead (arg : Arg) (payload : List Word)
  /-- STREAM_TRANSFORM; `n` is `ARG`, the frames of the chunk (R215) -/
  | streamTransform (n : Arg) (payload : List Word)
  /-- QUERY (R198); the decoder gives it for the headers that no register row fixes -/
  | query (arg : Arg) (payload : List Word)
  /-- QUERY.PHASE, register 0x00 -/
  | queryPhase (payload : List Word)
  /-- QUERY.ERR, register 0x01 -/
  | queryErr (payload : List Word)
  /-- QUERY.ERR_INFO, register 0x02 -/
  | queryErrInfo (payload : List Word)
  /-- QUERY.BLOCK_SIZE, register 0x03 -/
  | queryBlockSize (payload : List Word)
  /-- QUERY.MAX_CHANNELS, register 0x04 -/
  | queryMaxChannels (payload : List Word)
  /-- QUERY.MAX_FFT_LEN, register 0x05 -/
  | queryMaxFftLen (payload : List Word)
  /-- QUERY.HAS_RESAMPLER, register 0x06 -/
  | queryHasResampler (payload : List Word)
  /-- QUERY.SAMPLES_REQUIRED, register 0x08 -/
  | querySamplesRequired (payload : List Word)
  /-- QUERY.SAMPLE_LATENCY, register 0x09 -/
  | querySampleLatency (payload : List Word)
  /-- QUERY.SAMPLE_RATE, register 0x0A -/
  | querySampleRate (payload : List Word)
  /-- QUERY.CHANNEL_COUNT, register 0x0B -/
  | queryChannelCount (payload : List Word)
  /-- QUERY.AVAILABLE, register 0x0C -/
  | queryAvailable (payload : List Word)
  /-- QUERY.POSITION[0], register 0x20 -/
  | queryPosition0 (payload : List Word)
  /-- QUERY.POSITION[1], register 0x21 -/
  | queryPosition1 (payload : List Word)
  /-- QUERY.POSITION[2], register 0x22 -/
  | queryPosition2 (payload : List Word)
  /-- QUERY.POSITION[3], register 0x23 -/
  | queryPosition3 (payload : List Word)
  /-- QUERY.POSITION[4], register 0x24 -/
  | queryPosition4 (payload : List Word)
  /-- QUERY.POSITION[5], register 0x25 -/
  | queryPosition5 (payload : List Word)
  /-- QUERY.POSITION[6], register 0x26 -/
  | queryPosition6 (payload : List Word)
  /-- QUERY.POSITION[7], register 0x27 -/
  | queryPosition7 (payload : List Word)
  /-- QUERY.POSITION[8], register 0x28 -/
  | queryPosition8 (payload : List Word)
  /-- QUERY.POSITION[9], register 0x29 -/
  | queryPosition9 (payload : List Word)
  /-- QUERY.POSITION[10], register 0x2A -/
  | queryPosition10 (payload : List Word)
  /-- QUERY.POSITION[11], register 0x2B -/
  | queryPosition11 (payload : List Word)
  /-- QUERY.POSITION[12], register 0x2C -/
  | queryPosition12 (payload : List Word)
  /-- QUERY.POSITION[13], register 0x2D -/
  | queryPosition13 (payload : List Word)
  /-- QUERY.POSITION[14], register 0x2E -/
  | queryPosition14 (payload : List Word)
  /-- QUERY.POSITION[15], register 0x2F -/
  | queryPosition15 (payload : List Word)
  /-- QUERY.POSITION[16], register 0x30 -/
  | queryPosition16 (payload : List Word)
  /-- QUERY.POSITION[17], register 0x31 -/
  | queryPosition17 (payload : List Word)
  /-- QUERY.POSITION[18], register 0x32 -/
  | queryPosition18 (payload : List Word)
  /-- QUERY.POSITION[19], register 0x33 -/
  | queryPosition19 (payload : List Word)
  /-- QUERY.POSITION[20], register 0x34 -/
  | queryPosition20 (payload : List Word)
  /-- QUERY.POSITION[21], register 0x35 -/
  | queryPosition21 (payload : List Word)
  /-- QUERY.POSITION[22], register 0x36 -/
  | queryPosition22 (payload : List Word)
  /-- QUERY.POSITION[23], register 0x37 -/
  | queryPosition23 (payload : List Word)
deriving DecidableEq, Repr

end Sys2Proof
end

