-- ==== Sys2Proof/Decode.lean ====
section
/-! DEFINITION. The command decoder and encoder (30_encoding R70 to R74, R85; spec/opcode_table.json), over whole packets
and over the bytes of a byte-serial transport (20_memory R52). -/

namespace Sys2Proof

/-- Why a packet is no command. Safe: the engine answers the first with `BadOpcode` (R265); the other two are no
packets at all (R70). -/
inductive DecodeError where
  /-- `OPC` is not in the table of R74. -/
  | unassignedOpcode (opc : BitVec 8)
  /-- There is no header word. -/
  | emptyPacket
  /-- The bytes do not fill whole words. -/
  | partialWord
deriving DecidableEq, Repr

/-- `header[31:24]`, the field `OPC` (R71). -/
def headerOpc (h : Word) : BitVec 8 := h.extractLsb' 24 8

/-- `header[23:0]`, the field `ARG` (R71). -/
def headerArg (h : Word) : Arg := h.extractLsb' 0 24

/-- The header word of an opcode and an operand (R71). -/
def mkHeader (opc : BitVec 8) (arg : Arg) : Word := opc ++ arg

/-- The opcode map of R74, all but QUERY. -/
def opcodeRows : List (BitVec 8 × (Arg → List Word → Instr)) :=
  [(0x01, .construct),
   (0x02, .reset),
   (0x10, .mapFind),
   (0x11, .mapFindMirror),
   (0x20, .accZero),
   (0x21, .processChannel),
   (0x22, .rawTransform),
   (0x23, .accRead),
   (0x30, .streamTransform)]

/-- The opcode of QUERY (R74). -/
def queryOpc : BitVec 8 := 0x40

/-- The register rows of the table: the register number that fills `ARG`, and the row's instruction (R26). -/
def queryRows : List (Arg × (List Word → Instr)) :=
  [(0x00, .queryPhase),
   (0x01, .queryErr),
   (0x02, .queryErrInfo),
   (0x03, .queryBlockSize),
   (0x04, .queryMaxChannels),
   (0x05, .queryMaxFftLen),
   (0x06, .queryHasResampler),
   (0x08, .querySamplesRequired),
   (0x09, .querySampleLatency),
   (0x0A, .querySampleRate),
   (0x0B, .queryChannelCount),
   (0x0C, .queryAvailable),
   (0x20, .queryPosition0), (0x21, .queryPosition1), (0x22, .queryPosition2), (0x23, .queryPosition3),
   (0x24, .queryPosition4), (0x25, .queryPosition5), (0x26, .queryPosition6), (0x27, .queryPosition7),
   (0x28, .queryPosition8), (0x29, .queryPosition9), (0x2A, .queryPosition10), (0x2B, .queryPosition11),
   (0x2C, .queryPosition12), (0x2D, .queryPosition13), (0x2E, .queryPosition14), (0x2F, .queryPosition15),
   (0x30, .queryPosition16), (0x31, .queryPosition17), (0x32, .queryPosition18), (0x33, .queryPosition19),
   (0x34, .queryPosition20), (0x35, .queryPosition21), (0x36, .queryPosition22), (0x37, .queryPosition23)]

/-- The instruction of a QUERY header: the row of its register, else QUERY itself. -/
def decodeQuery (arg : Arg) (payload : List Word) : Instr :=
  match queryRows.lookup arg with
  | some row => row payload
  | none => .query arg payload

/-- The instruction a packet carries. Every packet whose `OPC` is assigned decodes; what its other bits and its
length are is checked when it executes (R85). -/
def decode (p : Packet) : Except DecodeError Instr :=
  if headerOpc p.header = queryOpc then .ok (decodeQuery (headerArg p.header) p.payload)
  else match opcodeRows.lookup (headerOpc p.header) with
    | some row => .ok (row (headerArg p.header) p.payload)
    | none => .error (.unassignedOpcode (headerOpc p.header))

/-- The packet of an instruction (R71, R74, R26). -/
def encode : Instr → Packet
  | .construct a p => ⟨mkHeader 0x01 a, p⟩
  | .reset a p => ⟨mkHeader 0x02 a, p⟩
  | .mapFind a p => ⟨mkHeader 0x10 a, p⟩
  | .mapFindMirror a p => ⟨mkHeader 0x11 a, p⟩
  | .accZero a p => ⟨mkHeader 0x20 a, p⟩
  | .processChannel a p => ⟨mkHeader 0x21 a, p⟩
  | .rawTransform a p => ⟨mkHeader 0x22 a, p⟩
  | .accRead a p => ⟨mkHeader 0x23 a, p⟩
  | .streamTransform a p => ⟨mkHeader 0x30 a, p⟩
  | .query a p => ⟨mkHeader 0x40 a, p⟩
  | .queryPhase p => ⟨mkHeader 0x40 0x00, p⟩
  | .queryErr p => ⟨mkHeader 0x40 0x01, p⟩
  | .queryErrInfo p => ⟨mkHeader 0x40 0x02, p⟩
  | .queryBlockSize p => ⟨mkHeader 0x40 0x03, p⟩
  | .queryMaxChannels p => ⟨mkHeader 0x40 0x04, p⟩
  | .queryMaxFftLen p => ⟨mkHeader 0x40 0x05, p⟩
  | .queryHasResampler p => ⟨mkHeader 0x40 0x06, p⟩
  | .querySamplesRequired p => ⟨mkHeader 0x40 0x08, p⟩
  | .querySampleLatency p => ⟨mkHeader 0x40 0x09, p⟩
  | .querySampleRate p => ⟨mkHeader 0x40 0x0A, p⟩
  | .queryChannelCount p => ⟨mkHeader 0x40 0x0B, p⟩
  | .queryAvailable p => ⟨mkHeader 0x40 0x0C, p⟩
  | .queryPosition0 p => ⟨mkHeader 0x40 0x20, p⟩
  | .queryPosition1 p => ⟨mkHeader 0x40 0x21, p⟩
  | .queryPosition2 p => ⟨mkHeader 0x40 0x22, p⟩
  | .queryPosition3 p => ⟨mkHeader 0x40 0x23, p⟩
  | .queryPosition4 p => ⟨mkHeader 0x40 0x24, p⟩
  | .queryPosition5 p => ⟨mkHeader 0x40 0x25, p⟩
  | .queryPosition6 p => ⟨mkHeader 0x40 0x26, p⟩
  | .queryPosition7 p => ⟨mkHeader 0x40 0x27, p⟩
  | .queryPosition8 p => ⟨mkHeader 0x40 0x28, p⟩
  | .queryPosition9 p => ⟨mkHeader 0x40 0x29, p⟩
  | .queryPosition10 p => ⟨mkHeader 0x40 0x2A, p⟩
  | .queryPosition11 p => ⟨mkHeader 0x40 0x2B, p⟩
  | .queryPosition12 p => ⟨mkHeader 0x40 0x2C, p⟩
  | .queryPosition13 p => ⟨mkHeader 0x40 0x2D, p⟩
  | .queryPosition14 p => ⟨mkHeader 0x40 0x2E, p⟩
  | .queryPosition15 p => ⟨mkHeader 0x40 0x2F, p⟩
  | .queryPosition16 p => ⟨mkHeader 0x40 0x30, p⟩
  | .queryPosition17 p => ⟨mkHeader 0x40 0x31, p⟩
  | .queryPosition18 p => ⟨mkHeader 0x40 0x32, p⟩
  | .queryPosition19 p => ⟨mkHeader 0x40 0x33, p⟩
  | .queryPosition20 p => ⟨mkHeader 0x40 0x34, p⟩
  | .queryPosition21 p => ⟨mkHeader 0x40 0x35, p⟩
  | .queryPosition22 p => ⟨mkHeader 0x40 0x36, p⟩
  | .queryPosition23 p => ⟨mkHeader 0x40 0x37, p⟩

/-- The words of a packet in the order they are sent: the header, then the payload (R70). -/
def Packet.words (p : Packet) : List Word := p.header :: p.payload

/-- The packet that a sequence of words is; none for the empty sequence (R70). -/
def packetOfWords : List Word → Option Packet
  | [] => none
  | h :: rest => some ⟨h, rest⟩

/-- The bytes of a word on a byte-serial transport, the least significant first (R52). -/
def bytesOfWord (w : Word) : List Byte :=
  [w.extractLsb' 0 8, w.extractLsb' 8 8, w.extractLsb' 16 8, w.extractLsb' 24 8]

/-- The words that bytes from a byte-serial transport make, if they fill whole words (R52). -/
def wordsOfBytes : List Byte → Option (List Word)
  | [] => some []
  | b0 :: b1 :: b2 :: b3 :: rest =>
    match wordsOfBytes rest with
    | some ws => some ((b3 ++ b2 ++ b1 ++ b0) :: ws)
    | none => none
  | _ => none

/-- The bytes of a packet (R52, R70). -/
def encodeBytes (i : Instr) : List Byte := (encode i).words.flatMap bytesOfWord

/-- The instruction that bytes carry; total on any bytes. -/
def decodeBytes (bytes : List Byte) : Except DecodeError Instr :=
  match wordsOfBytes bytes with
  | none => .error .partialWord
  | some ws =>
    match packetOfWords ws with
    | none => .error .emptyPacket
    | some p => decode p

/-- How many whole words hold `nbits` bits, at least the header. -/
def tableWordCount (nbits : Nat) : Nat := max 1 ((nbits + 31) / 32)

/-- The bytes of an instruction whose bits are `w`, bit 0 the least significant bit of its first word. -/
def tableBytes (nbits w : Nat) : List Byte :=
  (List.range (4 * tableWordCount nbits)).map fun k => BitVec.ofNat 8 (w >>> (8 * k))

/-- The packet of an instruction whose bits are `w`: the header is the low word, the payload the words above it that
`nbits` covers (none for a row of 32 bits). -/
def tablePacket (nbits w : Nat) : Packet :=
  ⟨BitVec.ofNat 32 w,
   (List.range (tableWordCount nbits - 1)).map fun k => BitVec.ofNat 32 (w >>> (32 * (k + 1)))⟩

/-- The instruction the decoder reads from an instruction whose bits are `w`, laid out as bytes. -/
def decodeTableWord (nbits w : Nat) : Option Instr :=
  match decodeBytes (tableBytes nbits w) with
  | .ok i => some i
  | .error _ => none

end Sys2Proof
end

