-- ==== Sys2Proof/Config.lean ====
section
/-! DEFINITION. The parameters of VS-CORE (00_scope R7), the uninterpreted ones among them (the transform
backend, the external resampler), and the values the spec leaves open. An `opaque` constant here has no body: a
claim that uses it holds whatever it is. -/

namespace Sys2Proof

/-- `MAX_CHANNELS` (R7: fixed, 24). -/
abbrev maxChannels : Nat := 24

/-- `HEADROOM`, 2.5 in binary32 (R7, R10: fixed). -/
abbrev headroom : F32 := 0x40200000#32

/-- Which transform primitive is attached (R110: "pluggable", fixed per engine). -/
inductive Backend where
  /-- The backend of the real engine: uninterpreted (R110, U8). -/
  | external
  /-- The spec's concrete test backend for `N = 4` (R113, R119). -/
  | ref4
  /-- The same, failing forward on a window whose first word is `p` (R119). -/
  | ref4x (p : F32)
deriving DecidableEq, Repr

/-- The parameters of R7 that are plain data. They are no state (R21): no step writes them. -/
structure Config where
  /-- `B`, `BLOCK_SIZE` -/
  blockSize : Nat
  /-- `MAX_FFT_LEN` -/
  maxFftLen : Nat
  /-- `HAS_RESAMPLER` -/
  hasResampler : Bool
  /-- `POS_EXT`: the assigned codes among 18 to 23, each with its mirror; `(k, m)` stands for codes `18 + k`, `18 + m` -/
  posExt : List (Fin 6 × Fin 6)
  /-- `BK` -/
  backend : Backend
deriving DecidableEq, Repr

/-- The scratch buffers of R31. -/
inductive Scratch where
  | spec | prod | tscr | hst
deriving DecidableEq, Repr

/-- The two-operand arithmetic operations that can produce a NaN (R101). -/
inductive FloatOp where
  | add | sub | mul | div
deriving DecidableEq, Repr

namespace Config

/-- The defaults of R7 (DESIGN CHOICE of the spec; log entry 2). -/
def default : Config :=
  { blockSize := 512, maxFftLen := 65536, hasResampler := false, posExt := [], backend := .external }

/-- `TCFG` of R119 with block size `b`: the configuration of the spec's test vectors. -/
def test (b : Nat) : Config :=
  { blockSize := b, maxFftLen := 65536, hasResampler := false, posExt := [], backend := .ref4 }

/-- The mirror of a `POS_EXT` place, if it is assigned (R131). -/
def extMirror (c : Config) (k : Fin 6) : Option (Fin 6) := c.posExt.lookup k

/-- The constraints of R7: `1 ≤ B ≤ 2^23 − 1`, `MAX_FFT_LEN` a power of two, at least 2, and below 2^32 because a
32-bit register holds it (DEDUCED, log entry 2); `POS_EXT` an involution on the assigned codes. -/
abbrev wf (c : Config) : Prop :=
  1 ≤ c.blockSize ∧ c.blockSize ≤ 2 ^ 23 - 1 ∧
  2 ≤ c.maxFftLen ∧ c.maxFftLen < 2 ^ 32 ∧ 2 ^ Nat.log2 c.maxFftLen = c.maxFftLen ∧
  ∀ k : Fin 6, ∀ m, c.extMirror k = some m → c.extMirror m = some k

/-- `BK.plan(N, C)` of the attached backend (R110). -/
opaque bkPlan : Nat → Nat → Bool

/-- `BK.fwd(N, x)`: `none` when the backend fails, else bin `k` for every `k` (R110). -/
opaque bkFwd : Nat → List F32 → Option (Nat → C32)

/-- `BK.inv(N, X)`: `none` when the backend fails, else sample `n` for every `n` (R110). -/
opaque bkInv : Nat → List C32 → Option (Nat → F32)

/-- `RESAMPLE(H, src_rate, dst_rate, channel_count)` (R153): the new common length, and sample `t` of channel
`c`; the channel count stays (R7). -/
opaque resample : List (List F32) → Word → Word → Nat → Nat × (Nat → Nat → F32)

/-- `CLIP_NAN` (R115, U6): what clipping a NaN gives; nothing is known of it. -/
opaque clipNan : F32 → F32

/-- The open choice of a NaN's sign and payload (R101, U7), for one operation on two operands. -/
opaque nanPattern : FloatOp → F32 → F32 → F32

/-- Element `j` of ear `e` (0 left, 1 right) of the `d`-th unspecified contents of `ACC` (R30, R181, U3, U4). -/
opaque freeAcc : (d e j : Nat) → F32

/-- Word `i` of a scratch buffer under the `d`-th draw (R31, U5). -/
opaque freeScratch : (d : Nat) → Scratch → (i : Nat) → F32

/-- `TOL` (R7, R111, U12): the tolerance that no source gives. -/
opaque tol : Rat

end Config

end Sys2Proof
end

