-- ==== Sys2Proof/Machine/Float.lean ====
section
/-! DEFINITION. The scalar arithmetic of 40_numerics R100 to R107, R115, on binary32 bit patterns, computed exactly on
naturals and rounded once. Magnitudes are counted in units of 2^-149, the smallest subnormal: every finite
binary32 is a whole number of them. -/

namespace Sys2Proof.Machine

/-- The sign bit. -/
def signBit (x : F32) : Bool := x.getLsbD 31

/-- Bits 30 to 0: exponent and fraction. They order the magnitudes. -/
def magBits (x : F32) : Nat := x.toNat % 2 ^ 31

/-- The magnitude bits of infinity. -/
abbrev infBits : Nat := 0x7F800000

def isNaN (x : F32) : Bool := decide (infBits < magBits x)

def isInf (x : F32) : Bool := decide (magBits x = infBits)

def isZero (x : F32) : Bool := decide (magBits x = 0)

def isFinite (x : F32) : Bool := decide (magBits x < infBits)

/-- The pattern with the given sign and magnitude bits. -/
def withSign (sign : Bool) (m : Nat) : F32 :=
  BitVec.ofNat 32 (if sign then 2 ^ 31 + m else m)

/-- The magnitude of a finite value in units of 2^-149 (R100: 8 exponent bits, 23 fraction bits, gradual underflow). -/
def magUnits (x : F32) : Nat :=
  if magBits x / 2 ^ 23 = 0 then magBits x
  else (2 ^ 23 + magBits x % 2 ^ 23) <<< (magBits x / 2 ^ 23 - 1)

/-- `p / q` rounded to the nearest natural, ties to even. -/
def divNearestEven (p q : Nat) : Nat :=
  if 2 * (p % q) < q then p / q
  else if q < 2 * (p % q) then p / q + 1
  else p / q + p / q % 2

/-- The magnitude bits of `p / q` units of 2^-149, rounded to nearest, ties to even (R100). The quantum is 2^k units with
the quotient's leading bit at place 23 (place 0 quantum below the normal range), and the bits of a value of `t`
quanta are `k * 2^23 + t`; past the largest finite value they are infinity's. -/
def roundUnits (p q : Nat) : Nat :=
  let k := Nat.log2 (p / q) - 23
  min infBits (k * 2 ^ 23 + divNearestEven p (q <<< k))

/-- A NaN: the open choice where it is one, else the default quiet NaN (R101, U7; log entry 9). -/
def openNan (op : FloatOp) (a b : F32) : F32 :=
  if isNaN (Config.nanPattern op a b) then Config.nanPattern op a b else 0x7FC00000#32

/-- The sum of two non-NaN values of the given signs and magnitude bits, where one operation `op` on `a`, `b` is
performed (`nan` is its result when that is a NaN). -/
def addParts (nan : F32) (sa : Bool) (a : F32) (sb : Bool) (b : F32) : F32 :=
  if isInf a then (if isInf b && sa != sb then nan else withSign sa infBits)
  else if isInf b then withSign sb infBits
  else if sa = sb then withSign sa (roundUnits (magUnits a + magUnits b) 1)
  else if magUnits b < magUnits a then withSign sa (roundUnits (magUnits a - magUnits b) 1)
  else if magUnits a < magUnits b then withSign sb (roundUnits (magUnits b - magUnits a) 1)
  else plusZero

/-- `fadd` (R101). -/
def fadd (a b : F32) : F32 :=
  if isNaN a || isNaN b then openNan .add a b
  else addParts (openNan .add a b) (signBit a) a (signBit b) b

/-- `fsub` (R101). -/
def fsub (a b : F32) : F32 :=
  if isNaN a || isNaN b then openNan .sub a b
  else addParts (openNan .sub a b) (signBit a) a (!signBit b) b

/-- `fmul` (R101). -/
def fmul (a b : F32) : F32 :=
  let s := signBit a ^^ signBit b
  if isNaN a || isNaN b then openNan .mul a b
  else if isInf a || isInf b then
    (if isZero a || isZero b then openNan .mul a b else withSign s infBits)
  else withSign s (roundUnits (magUnits a * magUnits b) (2 ^ 149))

/-- `fdiv` (R101). -/
def fdiv (a b : F32) : F32 :=
  let s := signBit a ^^ signBit b
  if isNaN a || isNaN b then openNan .div a b
  else if isInf a then (if isInf b then openNan .div a b else withSign s infBits)
  else if isInf b then withSign s 0
  else if isZero b then (if isZero a then openNan .div a b else withSign s infBits)
  else withSign s (roundUnits (magUnits a * 2 ^ 149) (magUnits b))

/-- `fneg` (R101): flips the sign bit and nothing else. -/
def fneg (a : F32) : F32 := a ^^^ 0x80000000#32

/-- `fabs` (R102). -/
def fabs (a : F32) : F32 := a &&& 0x7FFFFFFF#32

/-- The place of a non-NaN value in the order of the reals: both zeros at 0 (R103). -/
def orderKey (x : F32) : Int := if signBit x then -(magBits x : Int) else magBits x

/-- `fgt` (R103): false when an operand is a NaN. -/
def fgt (a b : F32) : Bool := !isNaN a && !isNaN b && decide (orderKey b < orderKey a)

/-- `flt` (R103). -/
def flt (a b : F32) : Bool := !isNaN a && !isNaN b && decide (orderKey a < orderKey b)

/-- `cmul` (R104): four products, one difference and one sum, each rounded. -/
def cmul (x y : C32) : C32 :=
  ⟨fsub (fmul x.re y.re) (fmul x.im y.im), fadd (fmul x.re y.im) (fmul x.im y.re)⟩

/-- `INVN = 1/N` (R105). -/
def invN (n : Nat) : F32 := withSign false (roundUnits (2 ^ 149) n)

/-- `clip` (R115): a NaN becomes the open value `CLIP_NAN`. -/
def clip (x : F32) : F32 :=
  if fgt x plusOne then plusOne
  else if flt x minusOne then minusOne
  else if isNaN x then Config.clipNan x
  else x

/-- `next_pow2(m)`: the least power of two that is at least `m`, for `m ≥ 1` (R117). -/
def nextPow2 (m : Nat) : Nat := if m ≤ 1 then 1 else 2 ^ (Nat.log2 (m - 1) + 1)

/-- `zeros(n)` (R11). -/
def zeros (n : Nat) : List F32 := List.replicate n plusZero

end Sys2Proof.Machine
end

