-- ==== Sys2Proof/Machine/Backend.lean ====
section
/-! DEFINITION. The transform backend `BK` (40_numerics R110 to R113, R119) and the external resampler (42_construct
R153), as functions of the configuration. The real backend and the resampler are uninterpreted; their results have
the lengths the spec gives them by construction. -/

namespace Sys2Proof.Machine

/-- `REF4.fwd` (R113). -/
def ref4Fwd (x0 x1 x2 x3 : F32) : List C32 :=
  let s02 := fadd x0 x2
  let d02 := fsub x0 x2
  let s13 := fadd x1 x3
  let d13 := fsub x1 x3
  [⟨fadd s02 s13, plusZero⟩, ⟨d02, fneg d13⟩, ⟨fsub s02 s13, plusZero⟩]

/-- `REF4.inv` (R113). -/
def ref4Inv (c0 c1 c2 : C32) : List F32 :=
  let e := fadd c0.re c2.re
  let o := fsub c0.re c2.re
  let a := fmul plusTwo c1.re
  let b := fmul plusTwo c1.im
  [fadd e a, fsub o b, fsub e a, fadd o b]

/-- `BK.plan(N, C)`: can an engine of that size be set up (R110, R112, R119). -/
def bkPlan (c : Config) (n channels : Nat) : Bool :=
  match c.backend with
  | .external => Config.bkPlan n channels
  | .ref4 => decide (n = 4)
  | .ref4x _ => decide (n = 4)

/-- `BK.fwd(N, x)`: the half spectrum of `N/2 + 1` bins, or `none` when the backend fails (R110, R112, R119).
REF4 and REF4X are defined for `N = 4` and four samples; on anything else they answer `none` (DESIGN CHOICE, log entry
28: R113 and R119 leave it open, and `bkPlan` builds no such engine). -/
def bkFwd (c : Config) (n : Nat) (x : List F32) : Option (List C32) :=
  match c.backend with
  | .external =>
    match Config.bkFwd n x with
    | none => none
    | some bin => some ((List.range (n / 2 + 1)).map bin)
  | .ref4 =>
    match n, x with
    | 4, [x0, x1, x2, x3] => some (ref4Fwd x0 x1 x2 x3)
    | _, _ => none
  | .ref4x p =>
    match n, x with
    | 4, [x0, x1, x2, x3] => if x0 = p then none else some (ref4Fwd x0 x1 x2 x3)
    | _, _ => none

/-- `BK.inv(N, X)`: `N` samples, or `none` when the backend fails (R110, R112, R119). REF4 and REF4X
answer `none` unless `N = 4` and there are three bins (DESIGN CHOICE, log entry 28). -/
def bkInv (c : Config) (n : Nat) (spectrum : List C32) : Option (List F32) :=
  match c.backend with
  | .external =>
    match Config.bkInv n spectrum with
    | none => none
    | some sample => some ((List.range n).map sample)
  | .ref4 | .ref4x _ =>
    match n, spectrum with
    | 4, [c0, c1, c2] => some (ref4Inv c0 c1 c2)
    | _, _ => none

/-- `RESAMPLE(H, src, dst, channels)`: the new common length and `channels` rows of that length (R153, R7). -/
def resampled (rows : List (List F32)) (src dst : Word) (channels : Nat) : Nat × List (List F32) :=
  ((Config.resample rows src dst channels).1,
   (List.range channels).map fun c =>
     (List.range (Config.resample rows src dst channels).1).map ((Config.resample rows src dst channels).2 c))

end Sys2Proof.Machine
end

