-- ==== Sys2Proof/Machine/State.lean ====
section
/-! DEFINITION. The state of VS-CORE (10_state R20 to R35) as plain data, what its two ports hold (30_encoding R70), and
the ways a step can stop. -/

namespace Sys2Proof.Machine

/-- `PHASE` (R23): is there an instance. -/
inductive Phase where
  | empty
  | ready
deriving DecidableEq, Repr

/-- `ACC` (R30): the left block and the right block, `B` samples each. -/
structure Acc where
  left : List F32
  right : List F32
deriving DecidableEq, Repr

/-- A response packet: the status word and the payload (R70, R81). -/
structure Response where
  status : Word
  payload : List Word
deriving DecidableEq, Repr

/-- What the host does to the engine, one event at a time (R70, R296). -/
inductive HostEvent where
  /-- A whole command packet arrives on the command port (R70). -/
  | command (p : Packet)
  /-- The hardware reset is asserted (R280); `discarded` are the words of the packet that it cuts short, received in
  part or in execution, none between commands. They are discarded and get no response (R280, U14). -/
  | hardReset (discarded : List Word)
  /-- Two hosts interleave the words of their packets: no command, and no meaning (R60, R292, U1). -/
  | interleaved (words : List Word)
deriving DecidableEq, Repr

/-- The address spaces of R50 that a command reads by index. -/
inductive Space where
  | map | ir | win | acc | tscr
deriving DecidableEq, Repr

/-- Why a step stops with a fault. -/
inductive Fault where
  /-- A command reads an element that its buffer does not have. Raised by the buffer reads of Machine/Ops.lean.
  No state that satisfies the invariant of R34 reaches it (R53). Safe: the engine's own behaviour there is not
  given, and the model stops. -/
  | noSuchElement (space : Space)
deriving DecidableEq, Repr

/-- Why a step is refused. -/
inductive Refusal where
  /-- Raised by `exec` for an instruction that has no meaning in the model. Safe: the model stops. No arm raises it. -/
  | notModelled (mnemonic : String)
  /-- Raised by `step` on words of two packets interleaved by two hosts (R60, U1: "it is refused"). Safe: the model
  stops where the spec gives no meaning. -/
  | interleavedPackets
deriving DecidableEq, Repr

/-- The state. The rule that names each field stands beside it. -/
structure State where
  /-- the parameters of R7, constant registers 0x03 to 0x06 of R26 among them; never written (R21, log entry 1) -/
  cfg : Config
  /-- `PHASE` (R23) -/
  phase : Phase
  /-- `ERR`, 8 bits (R24) -/
  err : BitVec 8
  /-- `ERR_INFO`, 32 bits (R24) -/
  errInfo : Word
  /-- `FFT_LEN`, the instance's `N` (R25) -/
  fftLen : Nat
  /-- `SAMPLE_RATE` in hertz, 32 bits (R25) -/
  sampleRate : Word
  /-- `CHANNEL_COUNT`, the instance's `C` (R25) -/
  channelCount : Nat
  /-- `MAP` (R27) -/
  map : List Position
  /-- `IR`: slot `channel*2 + ear`, bins 0 to `N/2` (R28, R56) -/
  ir : List (List C32)
  /-- `AVAILABLE`, the fill cursor (R29) -/
  available : Nat
  /-- `WIN`: one window per channel, oldest sample first (R29) -/
  win : List (List F32)
  /-- `ACC` (R30) -/
  acc : Acc
  /-- which draw the scratch buffers `SPEC`, `PROD`, `TSCR`, `HST` hold: their contents between commands are
  unspecified (R31), so the draw is all there is of them (log entry 8) -/
  scratch : Nat
  /-- the model's own: how many draws of unspecified contents have been made (log entry 7) -/
  draws : Nat
  /-- what the host has sent and the engine has not yet taken, oldest first (R70, R241) -/
  hostIn : List HostEvent
  /-- the responses the engine has sent, oldest first (R70, R297) -/
  hostOut : List Response
deriving DecidableEq, Repr

/-- The `d`-th unspecified contents of an accumulator of block size `b` (R30). -/
def Acc.drawn (b d : Nat) : Acc :=
  ⟨(List.range b).map (Config.freeAcc d 0), (List.range b).map (Config.freeAcc d 1)⟩

/-- The machine right after hardware reset, with parameters `c` (R35, R280). The fields to which R35 gives no value
hold 0 or the empty list (DESIGN CHOICE, log entry 12: no command reads them in phase EMPTY); `ACC` and the scratch
buffers hold unspecified contents; the ports are empty. -/
def State.powerOn (c : Config) : State :=
  { cfg := c, phase := .empty, err := 0, errInfo := 0, fftLen := 0, sampleRate := 0, channelCount := 0,
    map := [], ir := [], available := 0, win := [], acc := Acc.drawn c.blockSize 0, scratch := 0, draws := 1,
    hostIn := [], hostOut := [] }

/-- The machine right after reset, with the default parameters of R7. -/
def State.reset : State := State.powerOn Config.default

/-- What a step of this machine answers. -/
abbrev Result := Host.Outcome State Fault Refusal

end Sys2Proof.Machine
end

