-- ==== Sys2Proof/Machine/Flags.lean ====
section
/-! DEFINITION. Status: the errors, their codes and information words (60_exceptions R250 to R269), and the status word of a
response (30_encoding R81, R82). VS-CORE has no arithmetic flags (10_state R32); the only flag-like state is
`PHASE` and `ERR`. -/

namespace Sys2Proof.Machine

/-- Where a backend failure happened (R252, R264). -/
inductive Stage where
  | new | initIr | runForward | runInverse
deriving DecidableEq, Repr

/-- The ten errors of R252, each with what its information word is made of. -/
inductive CoreError where
  | unsupportedFormat (encoding bits : BitVec 8)
  | tooManyChannels (count : Nat)
  | asymmetricHrir (position : BitVec 8)
  | resamplingUnavailable (dstRate : Word)
  | transformBackendFailure (stage : Stage)
  | badOpcode (opc : BitVec 8)
  | badLength (required : Nat)
  | badOperand (offending : Word)
  | badPhase (phase : Phase)
  | chunkTooLarge (frames : Nat)
deriving DecidableEq, Repr

/-- The stage numbers of R252, R264. -/
def stageNumber : Stage → Nat
  | .new => 0
  | .initIr => 1
  | .runForward => 2
  | .runInverse => 3

/-- `PHASE` as a register value: `EMPTY` 0, `READY` 1 (R23). -/
def phaseWord : Phase → Word
  | .empty => 0
  | .ready => 1

/-- The status code of an error (R82, R252). -/
def errorCode : CoreError → BitVec 8
  | .unsupportedFormat _ _ => 0x01
  | .tooManyChannels _ => 0x02
  | .asymmetricHrir _ => 0x03
  | .resamplingUnavailable _ => 0x04
  | .transformBackendFailure _ => 0x05
  | .badOpcode _ => 0x10
  | .badLength _ => 0x11
  | .badOperand _ => 0x12
  | .badPhase _ => 0x13
  | .chunkTooLarge _ => 0x14

/-- The information word of an error, the value of `ERR_INFO` (R252, R260 to R269). -/
def errorInfo : CoreError → Word
  | .unsupportedFormat enc bits => (0#16 ++ enc) ++ bits
  | .tooManyChannels count => BitVec.ofNat 32 count
  | .asymmetricHrir position => position.setWidth 32
  | .resamplingUnavailable dst => dst
  | .transformBackendFailure stage => BitVec.ofNat 32 (stageNumber stage)
  | .badOpcode opc => opc.setWidth 32
  | .badLength required => BitVec.ofNat 32 required
  | .badOperand w => w
  | .badPhase p => phaseWord p
  | .chunkTooLarge frames => BitVec.ofNat 32 frames

/-- The status word: `STATUS` in bits 31 to 24, `INFO` in bits 23 to 0 (R81). -/
def statusWord (code : BitVec 8) (info : BitVec 24) : Word := code ++ info

/-- The response of a successful command: `OK`, `INFO` the number of payload words (R81). -/
def okResponse (payload : List Word) : Response :=
  ⟨statusWord 0 (BitVec.ofNat 24 payload.length), payload⟩

/-- The response of a failed command: the code, the low 24 bits of the information word, no payload (R81, R253). -/
def errorResponse (e : CoreError) : Response :=
  ⟨statusWord (errorCode e) ((errorInfo e).setWidth 24), []⟩

/-- The response payload of a lookup: nothing for `None`, the index for `Some` (R84). -/
def optionWords : Option Nat → List Word
  | none => []
  | some i => [BitVec.ofNat 32 i]

end Sys2Proof.Machine
end

