-- ==== Sys2Proof/Machine/Operands.lean ====
section
/-! DEFINITION. Operands: the fields of `ARG` (30_encoding R72, R73, R80), position codes and the mirror table (41_channelmap
R130, R131), and register numbers (10_state R26). -/

namespace Sys2Proof.Machine

/-- `ARG[7:0]`, the operand of formats `A8` and `A8P` (R72). -/
def argLow (a : Arg) : Nat := a.toNat % 256

/-- `ARG[23:8]` is zero (R72). -/
def argHighZero (a : Arg) : Bool := decide (a.toNat / 256 = 0)

/-- `ARG` as an information word, zero-extended (R252 `BadOperand`). -/
def argWord (a : Arg) : Word := a.setWidth 32

/-- The named positions in the order of their codes, 0 to 17 (R130). -/
def namedPositions : List Position :=
  [.FL, .FR, .FC, .LFE, .RL, .RR, .FLC, .FRC, .RC, .SL, .SR, .TFL, .TFR, .TFC, .TC, .TRL, .TRR, .TRC]

/-- The code of a position (R130). -/
def positionCode : Position → BitVec 8
  | .FL => 0 | .FR => 1 | .FC => 2 | .LFE => 3 | .RL => 4 | .RR => 5 | .FLC => 6 | .FRC => 7 | .RC => 8
  | .SL => 9 | .SR => 10 | .TFL => 11 | .TFR => 12 | .TFC => 13 | .TC => 14 | .TRL => 15 | .TRR => 16 | .TRC => 17
  | .ext k => BitVec.ofNat 8 (18 + k.val)

/-- A position is assigned: named, or supplied by `POS_EXT` (R130). -/
def positionAssigned (c : Config) : Position → Bool
  | .ext k => (c.extMirror k).isSome
  | _ => true

/-- The position of a code, `none` for an unassigned code (R130). -/
def positionOfCode (c : Config) (code : Nat) : Option Position :=
  if code < 18 then namedPositions[code]?
  else if h : code - 18 < 6 then
    (if (c.extMirror ⟨code - 18, h⟩).isSome then some (.ext ⟨code - 18, h⟩) else none)
  else none

/-- `mirror(p)` (R131). A `POS_EXT` place that is not assigned is in no `MAP`; it is left as it is. -/
def mirror (c : Config) : Position → Position
  | .FL => .FR | .FR => .FL | .RL => .RR | .RR => .RL | .FLC => .FRC | .FRC => .FLC
  | .SL => .SR | .SR => .SL | .TFL => .TFR | .TFR => .TFL | .TRL => .TRR | .TRR => .TRL
  | .FC => .FC | .LFE => .LFE | .RC => .RC | .TFC => .TFC | .TC => .TC | .TRC => .TRC
  | .ext k => .ext ((c.extMirror k).getD k)

/-- The position operand of MAP_FIND and MAP_FIND_MIRROR: `ARG[23:8]` zero and `ARG[7:0]` an assigned code (R80). -/
def positionOperand (c : Config) (a : Arg) : Option Position :=
  if argHighZero a then positionOfCode c (argLow a) else none

/-- The number of a status register (R26). -/
def registerNumber : StatusReg → Nat
  | .phase => 0x00 | .err => 0x01 | .errInfo => 0x02 | .blockSize => 0x03 | .maxChannels => 0x04
  | .maxFftLen => 0x05 | .hasResampler => 0x06 | .samplesRequired => 0x08 | .sampleLatency => 0x09
  | .sampleRate => 0x0A | .channelCount => 0x0B | .available => 0x0C
  | .position i => 0x20 + i.val

/-- The status register of a number, `none` for a reserved number (R26). -/
def registerOfNumber (r : Nat) : Option StatusReg :=
  match r with
  | 0x00 => some .phase | 0x01 => some .err | 0x02 => some .errInfo | 0x03 => some .blockSize
  | 0x04 => some .maxChannels | 0x05 => some .maxFftLen | 0x06 => some .hasResampler
  | 0x08 => some .samplesRequired | 0x09 => some .sampleLatency | 0x0A => some .sampleRate
  | 0x0B => some .channelCount | 0x0C => some .available
  | r => if h : 0x20 ≤ r ∧ r - 0x20 < 24 then some (.position ⟨r - 0x20, h.2⟩) else none

/-- The register operand of QUERY: `ARG[23:8]` zero and `ARG[7:0]` a register number (R80, R198). -/
def registerOperand (a : Arg) : Option StatusReg :=
  if argHighZero a then registerOfNumber (argLow a) else none

/-- A QUERY of the register succeeds in any phase: registers 0x00 to 0x06 (R26). -/
def registerAnyPhase (r : StatusReg) : Bool := decide (registerNumber r < 0x08)

end Sys2Proof.Machine
end

