-- ==== Sys2Proof/Machine/Ops.lean ====
section
/-! DEFINITION. The named operations over registers and buffers: reading and writing elements (00_scope R12, 20_memory R50),
answering the host (46_system R241), TAKING AN ERROR (60_exceptions R253), unspecified contents (10_state R30, R31),
dropping and building the whole set of FilterState, `MAP`, `IR` and `WIN` (R35, 42_construct R160). There is no return
from an error: the engine is ready at once (R257). -/

namespace Sys2Proof.Machine

/-- `MemRead(space, index, n)`: `n` consecutive elements, `none` when the buffer does not have them (R12, R53). -/
def memRead {α : Type} (buf : List α) (index n : Nat) : Option (List α) :=
  if index + n ≤ buf.length then some ((buf.drop index).take n) else none

/-- `MemRead` along the last index of a buffer with two indices (R50). -/
def memRead2 {α : Type} (buf : List (List α)) (row index n : Nat) : Option (List α) :=
  match buf[row]? with
  | none => none
  | some r => memRead r index n

/-- `respond OK, payload` (R12, R81). -/
def respond (payload : List Word) (s : State) : Result :=
  .next { s with hostOut := s.hostOut ++ [okResponse payload] }

/-- `ERR` and `ERR_INFO` latch an error (R24). -/
def State.latchError (e : CoreError) (s : State) : State :=
  { s with err := errorCode e, errInfo := errorInfo e }

/-- `raise E(info)`: the error response (R253). The engine goes on with the next command. -/
def raiseError (e : CoreError) (s : State) : Result :=
  .next { s.latchError e with hostOut := s.hostOut ++ [errorResponse e] }

/-- `require c else raise e`, then the rest of the rule. -/
@[inline] def require (c : Bool) (e : CoreError) (s : State) (k : Result) : Result :=
  if c then k else raiseError e s

/-- `ACC` takes new contents. -/
def State.setAcc (a : Acc) (s : State) : State := { s with acc := a }

/-- Every element of `ACC` becomes unspecified (R30, R181). -/
def State.loseAcc (s : State) : State :=
  { s with acc := Acc.drawn s.cfg.blockSize s.draws, draws := s.draws + 1 }

/-- The scratch buffers have been written and hold unspecified contents (R31). -/
def State.loseScratch (s : State) : State := { s with scratch := s.draws, draws := s.draws + 1 }

/-- The same, if there is a channel to process (R163(b), R196: with `C = 0` nothing changes). -/
def State.loseScratchIfUsed (s : State) : State :=
  if s.channelCount = 0 then s else s.loseScratch

/-- Bin `k` of `SPEC` (R31). -/
def State.specAt (s : State) (k : Nat) : C32 :=
  ⟨Config.freeScratch s.scratch .spec (2 * k), Config.freeScratch s.scratch .spec (2 * k + 1)⟩

/-- Bin `k` of `PROD` (R31). -/
def State.prodAt (s : State) (k : Nat) : C32 :=
  ⟨Config.freeScratch s.scratch .prod (2 * k), Config.freeScratch s.scratch .prod (2 * k + 1)⟩

/-- Sample `i` of `TSCR` (R31). -/
def State.tscrAt (s : State) (i : Nat) : F32 := Config.freeScratch s.scratch .tscr i

/-- Word `i` of `HST` (R31). -/
def State.hstAt (s : State) (i : Nat) : F32 := Config.freeScratch s.scratch .hst i

/-- The accumulators all `+0.0` (R195, R219). -/
def Acc.zeroed (b : Nat) : Acc := ⟨zeros b, zeros b⟩

/-- Sample `j` of ear `e` of the accumulators (0 left, 1 right), `none` where there is none (R30, R50). -/
def Acc.at? (a : Acc) (e j : Nat) : Option F32 :=
  match e with
  | 0 => a.left[j]?
  | 1 => a.right[j]?
  | _ => none

/-- The reset state of R35 in the state's own machine: everything but the parameters is dropped; what the host has
sent and received stays with the host. `ACC` and the scratch buffers become unspecified (R240, R280). -/
def State.clear (s : State) : State :=
  { s with
    phase := .empty, err := 0, errInfo := 0, fftLen := 0, sampleRate := 0, channelCount := 0,
    map := [], ir := [], available := 0, win := [],
    acc := Acc.drawn s.cfg.blockSize s.draws, scratch := s.draws, draws := s.draws + 1 }

/-- What CONSTRUCT has built when its last step is done (R160). -/
structure Built where
  fftLen : Nat
  sampleRate : Word
  map : List Position
  ir : List (List C32)
deriving DecidableEq, Repr

/-- Commit (R160): the FilterState, `MAP` and `IR` as built, empty windows, `ACC` and scratch unspecified, `PHASE`
becomes `READY`; `ERR` and `ERR_INFO` stay. -/
def State.commit (b : Built) (s : State) : State :=
  { s with
    phase := .ready, fftLen := b.fftLen, sampleRate := b.sampleRate, channelCount := b.map.length,
    map := b.map, ir := b.ir, available := 0, win := List.replicate b.map.length [],
    acc := Acc.drawn s.cfg.blockSize s.draws, scratch := s.draws, draws := s.draws + 1 }

/-- Every window loses its `d` oldest samples (R217, R220). -/
def State.dropFront (d : Nat) (s : State) : State :=
  { s with win := s.win.map (List.drop d), available := s.available - d }

/-- Window `c` gets the `n` samples `D[t*C + c]`, frame 0 first (R216). -/
def State.appendFrames (n : Nat) (d : List Word) (s : State) : State :=
  { s with
    win := s.win.mapIdx fun c row => row ++ (List.range n).map fun t => d.getD (t * s.channelCount + c) plusZero
    available := s.available + n }

/-- The next host event is taken. -/
def State.takeEvent (rest : List HostEvent) (s : State) : State := { s with hostIn := rest }

end Sys2Proof.Machine
end

