-- ==== Sys2Proof/Machine/ChannelMap.lean ====
section
/-! DEFINITION. The ChannelMap family (41_channelmap R133 to R138): `from_positions`, `find`, `find_mirror` and the commands
MAP_FIND and MAP_FIND_MIRROR. -/

namespace Sys2Proof.Machine

/-- `from_positions(seq)` (R133): the map, unless the sequence is longer than 24. -/
def fromPositions (seq : List Position) : Except CoreError (List Position) :=
  if maxChannels < seq.length then .error (.tooManyChannels seq.length) else .ok seq

/-- `find(p)`: the smallest index that holds `p` (R134). -/
def find (map : List Position) (p : Position) : Option Nat := map.findIdx? fun q => decide (q = p)

/-- `find_mirror(p) = find(mirror(p))` (R135). -/
def findMirror (c : Config) (map : List Position) (p : Position) : Option Nat := find map (mirror c p)

/-- MAP_FIND (R136). -/
def execMapFind (arg : Arg) (payload : List Word) (s : State) : Result :=
  require (decide (s.phase = .ready)) (.badPhase s.phase) s <|
  match positionOperand s.cfg arg with
  | none => raiseError (.badOperand (argWord arg)) s
  | some p =>
    require (decide (payload.length = 0)) (.badLength 0) s <|
    respond (optionWords (find s.map p)) s

/-- MAP_FIND_MIRROR (R137). -/
def execMapFindMirror (arg : Arg) (payload : List Word) (s : State) : Result :=
  require (decide (s.phase = .ready)) (.badPhase s.phase) s <|
  match positionOperand s.cfg arg with
  | none => raiseError (.badOperand (argWord arg)) s
  | some p =>
    require (decide (payload.length = 0)) (.badLength 0) s <|
    respond (optionWords (findMirror s.cfg s.map p)) s

end Sys2Proof.Machine
end

