-- ==== Sys2Proof/Machine/Engine.lean ====
section
/-! DEFINITION. The Convolution Engine family (43_engine R175 to R182): `new`, `init_ir`, `process_channel`, the loop over
channels that the Raw and the Streaming Filter share (44_raw_filter R196, 45_streaming R219), and PROCESS_CHANNEL. -/

namespace Sys2Proof.Machine

/-- Why `process_channel` ends early. -/
inductive EngineStop where
  /-- the backend failed (R112, R181) -/
  | backend (stage : Stage)
  /-- an element that the buffer does not have (R53) -/
  | noSuchElement (space : Space)
deriving DecidableEq, Repr

/-- `new(C, N)` (R175): the capacity check. -/
def engineNew (c : Config) (channels n : Nat) : Except CoreError Unit :=
  if n ≤ c.maxFftLen ∧ bkPlan c n channels = true then .ok ()
  else .error (.transformBackendFailure .new)

/-- `init_ir(buf, s)` (R176): the spectrum that goes into the slot. -/
def initIr (c : Config) (n : Nat) (buf : List F32) : Except CoreError (List C32) :=
  match bkFwd c n buf with
  | none => .error (.transformBackendFailure .initIr)
  | some spectrum => .ok spectrum

/-- One ear of `process_channel` (R180): the product with the ear's impulse response, its inverse transform, and the
last `B` samples scaled by `1/N` and added to `old`. -/
def processEar (s : State) (slot : Nat) (spec : List C32) (old : List F32) : Except EngineStop (List F32) :=
  match memRead2 s.ir slot 0 (s.fftLen / 2 + 1) with
  | none => .error (.noSuchElement .ir)
  | some ir =>
    match bkInv s.cfg s.fftLen (List.zipWith cmul spec ir) with
    | none => .error (.backend .runInverse)
    | some tscr =>
      match memRead tscr (s.fftLen - s.cfg.blockSize) s.cfg.blockSize with
      | none => .error (.noSuchElement .tscr)
      | some block =>
        match memRead old 0 s.cfg.blockSize with
        | none => .error (.noSuchElement .acc)
        | some acc => .ok (List.zipWith (fun a y => fadd a (fmul y (invN s.fftLen))) acc block)

/-- `process_channel(ch, w)` (R180) on accumulators `acc`: one forward transform, then the left ear, then the right
ear. Reads `IR` and the FilterState of `s`. -/
def processChannel (s : State) (ch : Nat) (w : List F32) (acc : Acc) : Except EngineStop Acc :=
  match bkFwd s.cfg s.fftLen w with
  | none => .error (.backend .runForward)
  | some spec =>
    match processEar s (ch * 2) spec acc.left with
    | .error e => .error e
    | .ok left =>
      match processEar s (ch * 2 + 1) spec acc.right with
      | .error e => .error e
      | .ok right => .ok ⟨left, right⟩

/-- `process_channel` for the channels from `ch` on, in order, one window each (R58, R196, R219). -/
def processChannels (s : State) : Nat → List (List F32) → Acc → Except EngineStop Acc
  | _, [], acc => .ok acc
  | ch, w :: ws, acc =>
    match processChannel s ch w acc with
    | .error e => .error e
    | .ok acc' => processChannels s (ch + 1) ws acc'

/-- A runtime command's `process_channel` ended early: the backend failure's error with `ACC` unspecified (R181,
R253), or a fault. -/
def engineStopped (e : EngineStop) (s : State) : Result :=
  match e with
  | .backend stage => raiseError (.transformBackendFailure stage) s.loseAcc.loseScratch
  | .noSuchElement space => .fault (.noSuchElement space)

/-- PROCESS_CHANNEL (R182). -/
def execProcessChannel (arg : Arg) (payload : List Word) (s : State) : Result :=
  require (decide (s.phase = .ready)) (.badPhase s.phase) s <|
  require (argHighZero arg && decide (argLow arg < s.channelCount)) (.badOperand (argWord arg)) s <|
  require (decide (payload.length = s.fftLen)) (.badLength s.fftLen) s <|
  match processChannel s (argLow arg) payload s.acc with
  | .error e => engineStopped e s
  | .ok acc => respond [] (s.setAcc acc).loseScratch

end Sys2Proof.Machine
end

