-- ==== Sys2Proof/Machine/Construct.lean ====
section
/-! DEFINITION. The HRIR Preprocessor family (42_construct R150 to R163): CONSTRUCT, its packet checks and its seven steps. -/

namespace Sys2Proof.Machine

/-- The decoded packet of CONSTRUCT (R75, R151): the declared format, the rates, the positions, and the recording
`H`, one row per channel. -/
structure Recording where
  encoding : BitVec 8
  bits : BitVec 8
  srcRate : Word
  dstRate : Word
  positions : List Position
  frames : Nat
  rows : List (List F32)
deriving DecidableEq, Repr

/-- The positions of the words `POS[i]`, or the first word that is none (R151). -/
def decodePositions (c : Config) : List Word → Except CoreError (List Position)
  | [] => .ok []
  | w :: ws =>
    match (if w.toNat / 256 = 0 then positionOfCode c (w.toNat % 256) else none) with
    | none => .error (.badOperand w)
    | some p =>
      match decodePositions c ws with
      | .error e => .error e
      | .ok ps => .ok (p :: ps)

/-- The rows of `k` channels of `l` samples in planar data (R75). -/
def planarRows (l : Nat) : (k : Nat) → List Word → List (List F32)
  | 0, _ => []
  | k + 1, d => d.take l :: planarRows l k (d.drop l)

/-- The packet decode and its protocol checks, in the order of R151; `l` is `ARG`. -/
def decodeRecording (c : Config) (l : Nat) (payload : List Word) : Except CoreError Recording :=
  match payload with
  | fmt :: cin :: src :: dst :: rest =>
    if payload.length = 4 + cin.toNat + cin.toNat * l then
      if fmt.extractLsb' 16 16 = 0 then
        match decodePositions c (rest.take cin.toNat) with
        | .error e => .error e
        | .ok ps =>
          .ok { encoding := fmt.extractLsb' 8 8, bits := fmt.extractLsb' 0 8, srcRate := src, dstRate := dst,
                positions := ps, frames := l, rows := planarRows l cin.toNat (rest.drop cin.toNat) }
      else .error (.badOperand fmt)
    else .error (.badLength (4 + cin.toNat + cin.toNat * l))
  | _ => .error (.badLength 4)

/-- Step 1 (R152): only 32-bit IEEE float. -/
def checkFormat (r : Recording) : Except CoreError Unit :=
  if r.encoding = 1 ∧ r.bits = 32 then .ok () else .error (.unsupportedFormat r.encoding r.bits)

/-- Step 2 (R153): resample when a different rate is asked for. Answers the recording as it is then, and its rate. -/
def resampleStep (c : Config) (r : Recording) : Except CoreError (Recording × Word) :=
  if r.dstRate ≠ 0 ∧ r.dstRate ≠ r.srcRate then
    if c.hasResampler then
      let out := resampled r.rows r.srcRate r.dstRate r.rows.length
      .ok ({ r with frames := out.1, rows := out.2 }, r.dstRate)
    else .error (.resamplingUnavailable r.dstRate)
  else .ok (r, r.srcRate)

/-- The sum of the absolute values of frame `t`, in channel order from `+0.0` (R154, R107). -/
def frameSum (rows : List (List F32)) (t : Nat) : F32 :=
  rows.foldl (fun s row => fadd s (fabs (row.getD t plusZero))) plusZero

/-- `hrir_max`: the largest frame sum, from `+0.0`; a NaN sum is skipped (R154). -/
def hrirMax (rows : List (List F32)) (frames : Nat) : F32 :=
  (List.range frames).foldl (fun m t => let s := frameSum rows t; if fgt s m then s else m) plusZero

/-- Step 3 (R154): every sample divided by `hrir_max × 2.5`. -/
def normalise (rows : List (List F32)) (frames : Nat) : List (List F32) :=
  let scale := fmul (hrirMax rows frames) headroom
  rows.map fun row => row.map fun x => fdiv x scale

/-- Step 4 (R155). -/
def planFftLen (c : Config) (frames : Nat) : Nat := nextPow2 (frames + c.blockSize + 1)

/-- Step 6 (R158): the right-ear source of every channel of `todo`, in index order. -/
def resolveMirrors (c : Config) (map : List Position) : (todo : List Position) → Except CoreError (List Nat)
  | [] => .ok []
  | p :: ps =>
    match findMirror c map p with
    | none => .error (.asymmetricHrir (positionCode p))
    | some m =>
      match resolveMirrors c map ps with
      | .error e => .error e
      | .ok ms => .ok (m :: ms)

/-- The zero-padded impulse of a source channel (R159). -/
def impulse (rows : List (List F32)) (frames n src : Nat) : List F32 :=
  (rows.getD src []).take frames ++ zeros (n - frames)

/-- Step 7 (R159): the slots of the channels from `i` on whose right-ear sources are `rsrc`, left ear first. -/
def storeImpulses (c : Config) (rows : List (List F32)) (frames n : Nat) :
    (i : Nat) → (rsrc : List Nat) → Except CoreError (List (List C32))
  | _, [] => .ok []
  | i, m :: ms =>
    match initIr c n (impulse rows frames n i) with
    | .error e => .error e
    | .ok left =>
      match initIr c n (impulse rows frames n m) with
      | .error e => .error e
      | .ok right =>
        match storeImpulses c rows frames n (i + 1) ms with
        | .error e => .error e
        | .ok rest => .ok (left :: right :: rest)

/-- Steps 1 to 7 (R150, R152 to R159, C12), stopping at the first error. -/
def buildInstance (c : Config) (r : Recording) : Except CoreError Built := do
  checkFormat r
  let (rec, rate) ← resampleStep c r
  let rows := normalise rec.rows rec.frames
  let n := planFftLen c rec.frames
  let map ← fromPositions rec.positions
  engineNew c map.length n
  let rsrc ← resolveMirrors c map map
  let ir ← storeImpulses c rows rec.frames n 0 rsrc
  .ok { fftLen := n, sampleRate := rate, map := map, ir := ir }

/-- CONSTRUCT (R150): legal in `EMPTY` only. A failing step leaves no instance (R161); the recording has then
been through the scratch buffer `HST`. -/
def execConstruct (l : Arg) (payload : List Word) (s : State) : Result :=
  require (decide (s.phase = .empty)) (.badPhase s.phase) s <|
  match decodeRecording s.cfg l.toNat payload with
  | .error e => raiseError e s
  | .ok r =>
    match buildInstance s.cfg r with
    | .error e => raiseError e s.loseScratch
    | .ok b => respond [] (s.commit b)

end Sys2Proof.Machine
end

