-- ==== Sys2Proof/Machine/Query.lean ====
section
/-! DEFINITION. Introspection (44_raw_filter R198 to R205): QUERY, and one meaning for each register row of the table. -/

namespace Sys2Proof.Machine

/-- `x[r]`, the value of a status register (R26, R199 to R205); `none` for a `POSITION[i]` that `MAP` lacks. -/
def readRegister (s : State) : StatusReg → Option Word
  | .phase => some (phaseWord s.phase)
  | .err => some (s.err.setWidth 32)
  | .errInfo => some s.errInfo
  | .blockSize => some (BitVec.ofNat 32 s.cfg.blockSize)
  | .maxChannels => some (BitVec.ofNat 32 maxChannels)
  | .maxFftLen => some (BitVec.ofNat 32 s.cfg.maxFftLen)
  | .hasResampler => some (if s.cfg.hasResampler then 1 else 0)
  | .samplesRequired => some (BitVec.ofNat 32 s.fftLen)
  | .sampleLatency => some (BitVec.ofNat 32 (s.fftLen - s.cfg.blockSize))
  | .sampleRate => some s.sampleRate
  | .channelCount => some (BitVec.ofNat 32 s.channelCount)
  | .available => some (BitVec.ofNat 32 s.available)
  | .position i => s.map[i.val]?.map fun p => (positionCode p).setWidth 32

/-- The register exists in this instance: `POSITION[i]` needs `i < C` (R198). -/
def registerPresent (s : State) : StatusReg → Bool
  | .position i => decide (i.val < s.channelCount)
  | _ => true

/-- QUERY of a register whose number is known to be valid: the phase check, the channel check, the length check, the
value (R198, in that order). -/
def queryRegister (r : StatusReg) (payload : List Word) (s : State) : Result :=
  require (registerAnyPhase r || decide (s.phase = .ready)) (.badPhase s.phase) s <|
  require (registerPresent s r) (.badOperand (BitVec.ofNat 32 (registerNumber r))) s <|
  require (decide (payload.length = 0)) (.badLength 0) s <|
  match readRegister s r with
  | none => .fault (.noSuchElement .map)
  | some w => respond [w] s

/-- QUERY (R198). -/
def execQuery (arg : Arg) (payload : List Word) (s : State) : Result :=
  match registerOperand arg with
  | none => raiseError (.badOperand (argWord arg)) s
  | some r => queryRegister r payload s

/-- QUERY.PHASE, register 0x00 (R198, R26). -/
def execQueryPhase (payload : List Word) (s : State) : Result := queryRegister .phase payload s

/-- QUERY.ERR, register 0x01 (R198, R26). -/
def execQueryErr (payload : List Word) (s : State) : Result := queryRegister .err payload s

/-- QUERY.ERR_INFO, register 0x02 (R198, R26). -/
def execQueryErrInfo (payload : List Word) (s : State) : Result := queryRegister .errInfo payload s

/-- QUERY.BLOCK_SIZE, register 0x03 (R198, R26). -/
def execQueryBlockSize (payload : List Word) (s : State) : Result := queryRegister .blockSize payload s

/-- QUERY.MAX_CHANNELS, register 0x04 (R198, R26). -/
def execQueryMaxChannels (payload : List Word) (s : State) : Result := queryRegister .maxChannels payload s

/-- QUERY.MAX_FFT_LEN, register 0x05 (R198, R26). -/
def execQueryMaxFftLen (payload : List Word) (s : State) : Result := queryRegister .maxFftLen payload s

/-- QUERY.HAS_RESAMPLER, register 0x06 (R198, R26). -/
def execQueryHasResampler (payload : List Word) (s : State) : Result := queryRegister .hasResampler payload s

/-- QUERY.SAMPLES_REQUIRED, register 0x08 (R198, R26). -/
def execQuerySamplesRequired (payload : List Word) (s : State) : Result := queryRegister .samplesRequired payload s

/-- QUERY.SAMPLE_LATENCY, register 0x09 (R198, R26). -/
def execQuerySampleLatency (payload : List Word) (s : State) : Result := queryRegister .sampleLatency payload s

/-- QUERY.SAMPLE_RATE, register 0x0A (R198, R26). -/
def execQuerySampleRate (payload : List Word) (s : State) : Result := queryRegister .sampleRate payload s

/-- QUERY.CHANNEL_COUNT, register 0x0B (R198, R26). -/
def execQueryChannelCount (payload : List Word) (s : State) : Result := queryRegister .channelCount payload s

/-- QUERY.AVAILABLE, register 0x0C (R198, R26). -/
def execQueryAvailable (payload : List Word) (s : State) : Result := queryRegister .available payload s

/-- QUERY.POSITION[0] (R198, R204). -/
def execQueryPosition0 (payload : List Word) (s : State) : Result := queryRegister (.position 0) payload s

/-- QUERY.POSITION[1] (R198, R204). -/
def execQueryPosition1 (payload : List Word) (s : State) : Result := queryRegister (.position 1) payload s

/-- QUERY.POSITION[2] (R198, R204). -/
def execQueryPosition2 (payload : List Word) (s : State) : Result := queryRegister (.position 2) payload s

/-- QUERY.POSITION[3] (R198, R204). -/
def execQueryPosition3 (payload : List Word) (s : State) : Result := queryRegister (.position 3) payload s

/-- QUERY.POSITION[4] (R198, R204). -/
def execQueryPosition4 (payload : List Word) (s : State) : Result := queryRegister (.position 4) payload s

/-- QUERY.POSITION[5] (R198, R204). -/
def execQueryPosition5 (payload : List Word) (s : State) : Result := queryRegister (.position 5) payload s

/-- QUERY.POSITION[6] (R198, R204). -/
def execQueryPosition6 (payload : List Word) (s : State) : Result := queryRegister (.position 6) payload s

/-- QUERY.POSITION[7] (R198, R204). -/
def execQueryPosition7 (payload : List Word) (s : State) : Result := queryRegister (.position 7) payload s

/-- QUERY.POSITION[8] (R198, R204). -/
def execQueryPosition8 (payload : List Word) (s : State) : Result := queryRegister (.position 8) payload s

/-- QUERY.POSITION[9] (R198, R204). -/
def execQueryPosition9 (payload : List Word) (s : State) : Result := queryRegister (.position 9) payload s

/-- QUERY.POSITION[10] (R198, R204). -/
def execQueryPosition10 (payload : List Word) (s : State) : Result := queryRegister (.position 10) payload s

/-- QUERY.POSITION[11] (R198, R204). -/
def execQueryPosition11 (payload : List Word) (s : State) : Result := queryRegister (.position 11) payload s

/-- QUERY.POSITION[12] (R198, R204). -/
def execQueryPosition12 (payload : List Word) (s : State) : Result := queryRegister (.position 12) payload s

/-- QUERY.POSITION[13] (R198, R204). -/
def execQueryPosition13 (payload : List Word) (s : State) : Result := queryRegister (.position 13) payload s

/-- QUERY.POSITION[14] (R198, R204). -/
def execQueryPosition14 (payload : List Word) (s : State) : Result := queryRegister (.position 14) payload s

/-- QUERY.POSITION[15] (R198, R204). -/
def execQueryPosition15 (payload : List Word) (s : State) : Result := queryRegister (.position 15) payload s

/-- QUERY.POSITION[16] (R198, R204). -/
def execQueryPosition16 (payload : List Word) (s : State) : Result := queryRegister (.position 16) payload s

/-- QUERY.POSITION[17] (R198, R204). -/
def execQueryPosition17 (payload : List Word) (s : State) : Result := queryRegister (.position 17) payload s

/-- QUERY.POSITION[18] (R198, R204). -/
def execQueryPosition18 (payload : List Word) (s : State) : Result := queryRegister (.position 18) payload s

/-- QUERY.POSITION[19] (R198, R204). -/
def execQueryPosition19 (payload : List Word) (s : State) : Result := queryRegister (.position 19) payload s

/-- QUERY.POSITION[20] (R198, R204). -/
def execQueryPosition20 (payload : List Word) (s : State) : Result := queryRegister (.position 20) payload s

/-- QUERY.POSITION[21] (R198, R204). -/
def execQueryPosition21 (payload : List Word) (s : State) : Result := queryRegister (.position 21) payload s

/-- QUERY.POSITION[22] (R198, R204). -/
def execQueryPosition22 (payload : List Word) (s : State) : Result := queryRegister (.position 22) payload s

/-- QUERY.POSITION[23] (R198, R204). -/
def execQueryPosition23 (payload : List Word) (s : State) : Result := queryRegister (.position 23) payload s

end Sys2Proof.Machine
end

