-- ==== Sys2Proof/Machine/RawFilter.lean ====
section
/-! DEFINITION. The Raw Filter family (44_raw_filter R195 to R197): ACC_ZERO, RAW_TRANSFORM, ACC_READ. -/

namespace Sys2Proof.Machine

/-- ACC_ZERO (R195). -/
def execAccZero (arg : Arg) (payload : List Word) (s : State) : Result :=
  require (decide (s.phase = .ready)) (.badPhase s.phase) s <|
  require (decide (arg = 0)) (.badOperand (argWord arg)) s <|
  require (decide (payload.length = 0)) (.badLength 0) s <|
  respond [] (s.setAcc (Acc.zeroed s.cfg.blockSize))

/-- The windows of a RAW_TRANSFORM payload: word `c*N + i` is sample `i` of channel `c` (R77). -/
def rawWindows (channels n : Nat) (payload : List Word) : List (List F32) :=
  (List.range channels).map fun c => (payload.drop (c * n)).take n

/-- RAW_TRANSFORM (R196). -/
def execRawTransform (arg : Arg) (payload : List Word) (s : State) : Result :=
  require (decide (s.phase = .ready)) (.badPhase s.phase) s <|
  require (decide (arg = 0)) (.badOperand (argWord arg)) s <|
  require (decide (payload.length = s.channelCount * s.fftLen)) (.badLength (s.channelCount * s.fftLen)) s <|
  match processChannels s 0 (rawWindows s.channelCount s.fftLen payload) s.acc with
  | .error e => engineStopped e s
  | .ok acc => respond [] (s.setAcc acc).loseScratchIfUsed

/-- ACC_READ (R197): the left block, then the right block (R79). -/
def execAccRead (arg : Arg) (payload : List Word) (s : State) : Result :=
  require (decide (s.phase = .ready)) (.badPhase s.phase) s <|
  require (decide (arg = 0)) (.badOperand (argWord arg)) s <|
  require (decide (payload.length = 0)) (.badLength 0) s <|
  match memRead s.acc.left 0 s.cfg.blockSize, memRead s.acc.right 0 s.cfg.blockSize with
  | some left, some right => respond (left ++ right) s
  | _, _ => .fault (.noSuchElement .acc)

end Sys2Proof.Machine
end

