-- ==== Sys2Proof/Machine/Streaming.lean ====
section
/-! DEFINITION. The Streaming Filter family (45_streaming R215 to R226): STREAM_TRANSFORM. -/

namespace Sys2Proof.Machine

/-- Step 1a: make room for `n` frames by dropping the oldest samples (R217). -/
def makeRoom (n : Nat) (s : State) : State :=
  if s.fftLen < s.available + n then s.dropFront (s.available + n - s.fftLen) else s

/-- Steps 1a and 1b: make room, de-interleave and append (R217, R216). -/
def absorb (n : Nat) (d : List Word) (s : State) : State := (makeRoom n s).appendFrames n d

/-- `WIN[c][0..N−1]` for the channels `c`, `c + 1`, …, `k` of them; `none` when a window lacks a sample (R219). -/
def readWindows (s : State) : (k c : Nat) → Option (List (List F32))
  | 0, _ => some []
  | k + 1, c =>
    match memRead2 s.win c 0 s.fftLen with
    | none => none
    | some w =>
      match readWindows s k (c + 1) with
      | none => none
      | some ws => some (w :: ws)

/-- `ACC` clipped in place (R219, R115). -/
def Acc.clipped (a : Acc) : Acc := ⟨a.left.map clip, a.right.map clip⟩

/-- `block_size` interleaved stereo samples: word `2j + e` is sample `j` of ear `e` (R78, R219). -/
def interleave : List F32 → List F32 → List Word
  | l :: ls, r :: rs => l :: r :: interleave ls rs
  | _, _ => []

/-- Steps 2 and 3 (R218 to R221), on the state after step 1b: no block while the windows are not full; else zero,
transform every channel, clip, emit, and slide by `B`. -/
def produceBlock (s : State) : Result :=
  if s.available < s.fftLen then respond [] s
  else
    match readWindows s s.channelCount 0 with
    | none => .fault (.noSuchElement .win)
    | some windows =>
      match processChannels s 0 windows (Acc.zeroed s.cfg.blockSize) with
      | .error e => engineStopped e s
      | .ok acc =>
        respond (interleave acc.clipped.left acc.clipped.right)
          (((s.setAcc acc.clipped).loseScratchIfUsed).dropFront s.cfg.blockSize)

/-- STREAM_TRANSFORM (R215). -/
def execStreamTransform (n : Arg) (payload : List Word) (s : State) : Result :=
  require (decide (s.phase = .ready)) (.badPhase s.phase) s <|
  require (decide (payload.length = n.toNat * s.channelCount)) (.badLength (n.toNat * s.channelCount)) s <|
  require (decide (n.toNat ≤ s.fftLen)) (.chunkTooLarge n.toNat) s <|
  produceBlock (absorb n.toNat payload s)

end Sys2Proof.Machine
end

