-- ==== Sys2Proof/Machine/System.lean ====
section
/-! DEFINITION. The system family (46_system R240) and hardware reset (70_reset_and_hazards R280). -/

namespace Sys2Proof.Machine

/-- RESET (R240): legal in both phases. -/
def execReset (arg : Arg) (payload : List Word) (s : State) : Result :=
  require (decide (arg = 0)) (.badOperand (argWord arg)) s <|
  require (decide (payload.length = 0)) (.badLength 0) s <|
  respond [] s.clear

/-- Hardware reset (R280): the state of R35, and no response. -/
def hardwareReset (s : State) : State := s.clear

end Sys2Proof.Machine
end

