-- ==== Sys2Proof/Machine/Dispatch.lean ====
section
/-! DEFINITION. Which meaning each instruction has. -/

namespace Sys2Proof.Machine

def exec (i : Instr) (s : State) : Host.Outcome State Fault Refusal :=
  match i with
  | .construct a p => Sys2Proof.Machine.execConstruct a p s
  | .reset a p => Sys2Proof.Machine.execReset a p s
  | .mapFind a p => Sys2Proof.Machine.execMapFind a p s
  | .mapFindMirror a p => Sys2Proof.Machine.execMapFindMirror a p s
  | .accZero a p => Sys2Proof.Machine.execAccZero a p s
  | .processChannel a p => Sys2Proof.Machine.execProcessChannel a p s
  | .rawTransform a p => Sys2Proof.Machine.execRawTransform a p s
  | .accRead a p => Sys2Proof.Machine.execAccRead a p s
  | .streamTransform a p => Sys2Proof.Machine.execStreamTransform a p s
  | .query a p => Sys2Proof.Machine.execQuery a p s
  | .queryPhase p => Sys2Proof.Machine.execQueryPhase p s
  | .queryErr p => Sys2Proof.Machine.execQueryErr p s
  | .queryErrInfo p => Sys2Proof.Machine.execQueryErrInfo p s
  | .queryBlockSize p => Sys2Proof.Machine.execQueryBlockSize p s
  | .queryMaxChannels p => Sys2Proof.Machine.execQueryMaxChannels p s
  | .queryMaxFftLen p => Sys2Proof.Machine.execQueryMaxFftLen p s
  | .queryHasResampler p => Sys2Proof.Machine.execQueryHasResampler p s
  | .querySamplesRequired p => Sys2Proof.Machine.execQuerySamplesRequired p s
  | .querySampleLatency p => Sys2Proof.Machine.execQuerySampleLatency p s
  | .querySampleRate p => Sys2Proof.Machine.execQuerySampleRate p s
  | .queryChannelCount p => Sys2Proof.Machine.execQueryChannelCount p s
  | .queryAvailable p => Sys2Proof.Machine.execQueryAvailable p s
  | .queryPosition0 p => Sys2Proof.Machine.execQueryPosition0 p s
  | .queryPosition1 p => Sys2Proof.Machine.execQueryPosition1 p s
  | .queryPosition2 p => Sys2Proof.Machine.execQueryPosition2 p s
  | .queryPosition3 p => Sys2Proof.Machine.execQueryPosition3 p s
  | .queryPosition4 p => Sys2Proof.Machine.execQueryPosition4 p s
  | .queryPosition5 p => Sys2Proof.Machine.execQueryPosition5 p s
  | .queryPosition6 p => Sys2Proof.Machine.execQueryPosition6 p s
  | .queryPosition7 p => Sys2Proof.Machine.execQueryPosition7 p s
  | .queryPosition8 p => Sys2Proof.Machine.execQueryPosition8 p s
  | .queryPosition9 p => Sys2Proof.Machine.execQueryPosition9 p s
  | .queryPosition10 p => Sys2Proof.Machine.execQueryPosition10 p s
  | .queryPosition11 p => Sys2Proof.Machine.execQueryPosition11 p s
  | .queryPosition12 p => Sys2Proof.Machine.execQueryPosition12 p s
  | .queryPosition13 p => Sys2Proof.Machine.execQueryPosition13 p s
  | .queryPosition14 p => Sys2Proof.Machine.execQueryPosition14 p s
  | .queryPosition15 p => Sys2Proof.Machine.execQueryPosition15 p s
  | .queryPosition16 p => Sys2Proof.Machine.execQueryPosition16 p s
  | .queryPosition17 p => Sys2Proof.Machine.execQueryPosition17 p s
  | .queryPosition18 p => Sys2Proof.Machine.execQueryPosition18 p s
  | .queryPosition19 p => Sys2Proof.Machine.execQueryPosition19 p s
  | .queryPosition20 p => Sys2Proof.Machine.execQueryPosition20 p s
  | .queryPosition21 p => Sys2Proof.Machine.execQueryPosition21 p s
  | .queryPosition22 p => Sys2Proof.Machine.execQueryPosition22 p s
  | .queryPosition23 p => Sys2Proof.Machine.execQueryPosition23 p s

end Sys2Proof.Machine
end

