-- ==== Sys2Proof/Machine/Step.lean ====
section
/-! DEFINITION. The command loop (46_system R241): one step takes one host event. -/

namespace Sys2Proof.Machine

/-- One turn of the command loop. With no event the engine waits and holds its state (R241, R275, R297). A packet whose
opcode is unassigned gets the `BadOpcode` response (R85 check 1, R265). The other decode errors are of no packet
(R70) and do not arise from one. -/
def step (s : State) : Host.Outcome State Fault Refusal :=
  match s.hostIn with
  | [] => .next s
  | .hardReset _ :: rest => .next (hardwareReset (s.takeEvent rest))
  | .interleaved _ :: _ => .refused .interleavedPackets
  | .command p :: rest =>
    match decode p with
    | .ok i => exec i (s.takeEvent rest)
    | .error _ => raiseError (.badOpcode (headerOpc p.header)) (s.takeEvent rest)

/-- The state with the packet of an instruction whose bits are `w` (bit 0 the least significant bit of the header)
arriving next on the command port, before everything the host has sent. -/
def State.withFetchWord (s : State) (nbits w : Nat) : State :=
  { s with hostIn := .command (tablePacket nbits w) :: s.hostIn }

end Sys2Proof.Machine
end

