-- ==== Sys2Proof/Machine/Assembler.lean ====
section
/-! DEFINITION. Commands as the spec writes them, with named operands (30_encoding R88), and the pseudo-commands (R89).
Machine/Text.lean reads them from text. -/

namespace Sys2Proof.Machine

/-- One line of R88. A position is held as its code and a register as its number, so that a code or number with no
meaning can be written too. -/
inductive AsmLine where
  | construct (enc bits : BitVec 8) (src dst : Word) (pos : List (BitVec 8)) (data : List (List F32))
  | reset
  | mapFind (p : BitVec 8)
  | mapFindMirror (p : BitVec 8)
  | accZero
  | processChannel (ch : BitVec 8) (win : List F32)
  | rawTransform (win : List (List F32))
  | accRead
  | streamTransform (frames : List (List F32))
  | query (r : BitVec 8)
deriving DecidableEq, Repr

/-- The payload of CONSTRUCT (R75): `FMT`, `CIN`, the rates, the position codes, the planar data. -/
def constructWords (enc bits : BitVec 8) (src dst : Word) (codes : List (BitVec 8)) (data : List (List F32)) :
    List Word :=
  ((0#16 ++ enc) ++ bits) :: BitVec.ofNat 32 codes.length :: src :: dst ::
    (codes.map (fun c => c.setWidth 32) ++ data.flatten)

/-- The payload of CONSTRUCT for named positions (R75). -/
def constructPayload (enc bits : BitVec 8) (src dst : Word) (pos : List Position) (data : List (List F32)) :
    List Word :=
  constructWords enc bits src dst (pos.map positionCode) data

/-- The instruction of a line (R88): `L`, `CIN` and `n` are read off the lists (taken modulo their fields' sizes, log
entry 26). -/
def assemble : AsmLine → Instr
  | .construct enc bits src dst pos data =>
    .construct (BitVec.ofNat 24 (data.headD []).length) (constructWords enc bits src dst pos data)
  | .reset => .reset 0 []
  | .mapFind p => .mapFind (p.setWidth 24) []
  | .mapFindMirror p => .mapFindMirror (p.setWidth 24) []
  | .accZero => .accZero 0 []
  | .processChannel ch win => .processChannel (ch.setWidth 24) win
  | .rawTransform win => .rawTransform 0 win.flatten
  | .accRead => .accRead 0 []
  | .streamTransform frames => .streamTransform (BitVec.ofNat 24 frames.length) frames.flatten
  | .query r => decodeQuery (r.setWidth 24) []

/-- The pseudo-commands of R89. `positions` and `streamSilence` depend on the instance's channel count. -/
inductive Pseudo where
  | rawCycle (win : List (List F32))
  | channelCycle (win : List (List F32))
  | samplesRequired | blockSize | sampleLatency | sampleRate | channelCount
  | positions (channels : Nat)
  | streamSilence (n channels : Nat)
deriving DecidableEq, Repr

/-- QUERY of a status register by its number (R26). -/
def queryOf (r : StatusReg) : AsmLine := .query (BitVec.ofNat 8 (registerNumber r))

/-- The expansions of R89. -/
def expand : Pseudo → List AsmLine
  | .rawCycle win => [.accZero, .rawTransform win, .accRead]
  | .channelCycle win =>
    .accZero :: (win.mapIdx fun c w => .processChannel (BitVec.ofNat 8 c) w) ++ [.accRead]
  | .samplesRequired => [queryOf .samplesRequired]
  | .blockSize => [queryOf .blockSize]
  | .sampleLatency => [queryOf .sampleLatency]
  | .sampleRate => [queryOf .sampleRate]
  | .channelCount => [queryOf .channelCount]
  | .positions channels =>
    queryOf .channelCount :: (List.range channels).map fun i => .query (BitVec.ofNat 8 (0x20 + i))
  | .streamSilence n channels => [.streamTransform (List.replicate n (zeros channels))]

end Sys2Proof.Machine
end

