-- ==== Sys2Proof/Safety.lean ====
section
/-! DEFINITION. The terms in which claims are stated: the invariant of 10_state R34, runs of commands, ranges of samples, the
named backend properties of 40_numerics R111 and the ideal transforms they refer to (R108, R109). -/

namespace Sys2Proof.Machine

/-- Every buffer has the elements R50 gives it: `ACC` two blocks of `B`; `MAP`, `IR`, `WIN` one entry, two slots, one
window per channel; a slot `N/2 + 1` bins; a window `AVAILABLE ≤ N` samples (R28 to R30, R34 b, c, d). In phase EMPTY
there are no channels and `N` is 0. -/
abbrev Memory.wf (s : State) : Prop :=
  s.acc.left.length = s.cfg.blockSize ∧ s.acc.right.length = s.cfg.blockSize ∧
  s.map.length = s.channelCount ∧
  s.ir.length = 2 * s.channelCount ∧ (∀ slot ∈ s.ir, slot.length = s.fftLen / 2 + 1) ∧
  s.available ≤ s.fftLen ∧
  s.win.length = s.channelCount ∧ ∀ w ∈ s.win, w.length = s.available

/-- The FilterState of a READY instance (R25, R34 a, b; R175): `N` a power of two with `B + 1 ≤ N ≤ MAX_FFT_LEN`, at
most 24 channels, every position assigned (R27). -/
abbrev filterWf (s : State) : Prop :=
  2 ^ Nat.log2 s.fftLen = s.fftLen ∧ s.cfg.blockSize + 1 ≤ s.fftLen ∧ s.fftLen ≤ s.cfg.maxFftLen ∧
  s.channelCount ≤ maxChannels ∧ ∀ p ∈ s.map, positionAssigned s.cfg p = true

/-- In phase EMPTY there is no FilterState (R35): the model's fields for it are cleared. -/
abbrev noInstance (s : State) : Prop :=
  s.fftLen = 0 ∧ s.sampleRate = 0 ∧ s.channelCount = 0 ∧ s.available = 0

/-- The invariant (R34), with the constraints on the parameters (R7). -/
abbrev State.Inv (s : State) : Prop :=
  s.cfg.wf ∧ Memory.wf s ∧ (s.phase = .ready → filterWf s) ∧ (s.phase = .empty → noInstance s)

/-- The commands in order, stopping at the first fault or refusal. -/
def execAll : List Instr → State → Result
  | [], s => .next s
  | i :: is, s =>
    match exec i s with
    | .next t => execAll is t
    | .fault r => .fault r
    | .refused r => .refused r

/-- "No fault recorded" (R24, R298 b). -/
abbrev noErrorRecorded (s : State) : Prop := s.err = 0

/-- `s` after the successful end of a command: one `OK` response, `INFO` its number of payload words (R81), nothing
else changed. -/
def answered (s : State) (payload : List Word) : State :=
  { s with hostOut := s.hostOut ++ [⟨0x00#8 ++ BitVec.ofNat 24 payload.length, payload⟩] }

/-- `s` after an error response: the latch and the one response word (R253), nothing else changed. -/
def failedWith (s : State) (code : BitVec 8) (info : Word) : State :=
  { s with err := code, errInfo := info, hostOut := s.hostOut ++ [⟨code ++ info.setWidth 24, []⟩] }

/-- The commands that R55 says change no state but `ERR` and `ERR_INFO`: the lookups, ACC_READ and every QUERY. -/
def isReadCommand : Instr → Bool
  | .construct _ _ | .reset _ _ | .accZero _ _ | .processChannel _ _ | .rawTransform _ _
  | .streamTransform _ _ => false
  | _ => true

/-- The samples of channel `c` in a chunk of `n` interleaved frames of `channels` samples (R78). -/
def channelSamples (n channels : Nat) (d : List Word) (c : Nat) : List F32 :=
  (List.range n).map fun t => d.getD (t * channels + c) plusZero

/-- The window of every channel after a chunk of `n` frames: old samples, then new, the newest `N` of them (R217,
R216). -/
def windowsAfter (s : State) (n : Nat) (d : List Word) : List (List F32) :=
  s.win.mapIdx fun c w => (w ++ channelSamples n s.channelCount d c).drop (s.available + n - s.fftLen)

/-- The `STATUS` field of a response (R81). -/
def Response.code (r : Response) : BitVec 8 := r.status.extractLsb' 24 8

/-- The `INFO` field of a response (R81). -/
def Response.info (r : Response) : BitVec 24 := r.status.extractLsb' 0 24

/-- The value lies in `[-1.0, 1.0]`. -/
def inUnitRange (x : F32) : Bool := !isNaN x && !fgt x plusOne && !flt x minusOne

/-- STREAM_TRANSFORM commands, one per chunk of frames, from `s`: the last state and the response payloads joined;
`none` when a command does not answer a next state (R224). -/
def streamRun : State → List (List (List F32)) → Option (State × List Word)
  | s, [] => some (s, [])
  | s, chunk :: rest =>
    match exec (assemble (.streamTransform chunk)) s with
    | .next t =>
      match streamRun t rest with
      | some (u, out) => some (u, (t.hostOut.drop s.hostOut.length).flatMap Response.payload ++ out)
      | none => none
    | _ => none

/-- Every chunk is a list of frames of `C` samples whose number fits `ARG`, and every call finds `AVAILABLE + n ≤ N`
(R224, R288). -/
def streamFits : State → List (List (List F32)) → Prop
  | _, [] => True
  | s, chunk :: rest =>
    (∀ frame ∈ chunk, frame.length = s.channelCount) ∧ chunk.length < 2 ^ 24 ∧
    s.available + chunk.length ≤ s.fftLen ∧
    ∀ t, exec (assemble (.streamTransform chunk)) s = .next t → streamFits t rest

/-- `process_channel(ch, w)` from `s` ends with a backend failure of the given stage: 2 when the forward transform of the
window fails, 3 when it does not and the inverse transform of either ear's product does (R180, R264). -/
def ChannelFails (s : State) (ch : Nat) (w : List F32) (stage : Word) : Prop :=
  (bkFwd s.cfg s.fftLen w = none ∧ stage = 2) ∨
  ∃ spec left right, bkFwd s.cfg s.fftLen w = some spec ∧ s.ir[2 * ch]? = some left ∧ s.ir[2 * ch + 1]? = some right ∧
    (bkInv s.cfg s.fftLen (List.zipWith cmul spec left) = none ∨
      bkInv s.cfg s.fftLen (List.zipWith cmul spec right) = none) ∧ stage = 3

/-- Channel `c` is the first whose window of `ws` meets a backend failure, of the given stage. -/
def FirstChannelFails (s : State) (ws : List (List F32)) (c : Nat) (stage : Word) : Prop :=
  (∃ w, ws[c]? = some w ∧ ChannelFails s c w stage) ∧
  ∀ j v i, j < c → ws[j]? = some v → ¬ChannelFails s j v i

/-- What the steps of CONSTRUCT after step 2 work on (R153): the rate, the frames per channel and the rows. They are the
recording's own when no other rate is asked for, else what `RESAMPLE` answers for it. -/
def WorkingRecording (src dst : Word) (l : Nat) (data : List (List F32)) (rate : Word) (frames : Nat)
    (rows : List (List F32)) : Prop :=
  if dst = 0 ∨ dst = src then rate = src ∧ frames = l ∧ rows = data
  else
    rate = dst ∧ frames = (Config.resample data src dst data.length).1 ∧ rows.length = data.length ∧
    (∀ row ∈ rows, row.length = frames) ∧
    ∀ ch t, ch < data.length → t < frames →
      (rows[ch]?.bind fun row => row[t]?) = some ((Config.resample data src dst data.length).2 ch t)

/-- A spectrum all of whose components are `+0.0` or `-0.0`. -/
def zeroSpectrum (x : List C32) : Prop := ∀ b ∈ x, isZero b.re = true ∧ isZero b.im = true

/-- A spectrum all of whose components are finite. -/
def finiteSpectrum (x : List C32) : Prop := ∀ b ∈ x, isFinite b.re = true ∧ isFinite b.im = true

/-- `BK-ZERO` at length `n` (R111), on the inputs that R110 gives the transforms: `n` samples, `n/2 + 1` bins. -/
def BkZero (c : Config) (n : Nat) : Prop :=
  (∀ x : List F32, x.length = n → (∀ v ∈ x, isZero v = true) → ∀ y, bkFwd c n x = some y → zeroSpectrum y) ∧
  (∀ x : List C32, x.length = n / 2 + 1 → zeroSpectrum x → ∀ y, bkInv c n x = some y → ∀ v ∈ y, isZero v = true)

/-- `BK-TOTAL` at length `n` (R111): the transforms do not fail. -/
def BkTotal (c : Config) (n : Nat) : Prop :=
  (∀ x : List F32, x.length = n → bkFwd c n x ≠ none) ∧
  (∀ x : List C32, x.length = n / 2 + 1 → bkInv c n x ≠ none)

/-- The exact value of a finite binary32 (R100). -/
def exactValue (x : F32) : ℚ := (if signBit x then -(magUnits x : ℚ) else magUnits x) / 2 ^ 149

/-- `r` is the real result `v` rounded once to binary32, to nearest, ties to even (R100, R101): a finite `r` is as near
to `v` as any finite value, and even where another is as near; past the midpoint above the largest finite
value `r` is the infinity of `v`'s sign. -/
def roundsTo (v : ℚ) (r : F32) : Prop :=
  (|v| < (2 ^ 24 - 1 / 2) * 2 ^ 104 → isFinite r = true ∧
    ∀ c, isFinite c = true → |exactValue r - v| ≤ |exactValue c - v| ∧
      (|exactValue c - v| = |exactValue r - v| → exactValue c ≠ exactValue r → magBits r % 2 = 0)) ∧
  ((2 ^ 24 - 1 / 2) * 2 ^ 104 ≤ |v| → isInf r = true ∧ (signBit r = true ↔ v < 0))

/-- `BK-FINITE(M)` at length `n` (R111). R111 does not say what "magnitudes at most `M`" means of a complex bin: the
bound on each of its two components is the model's (DESIGN CHOICE, log entry 27). -/
def BkFinite (c : Config) (n : Nat) (m : ℚ) : Prop :=
  (∀ x : List F32, x.length = n → (∀ v ∈ x, isFinite v = true ∧ |exactValue v| ≤ m) →
    ∀ y, bkFwd c n x = some y → finiteSpectrum y) ∧
  (∀ x : List C32, x.length = n / 2 + 1 →
    (∀ b ∈ x, (isFinite b.re = true ∧ |exactValue b.re| ≤ m) ∧ (isFinite b.im = true ∧ |exactValue b.im| ≤ m)) →
    ∀ y, bkInv c n x = some y → ∀ v ∈ y, isFinite v = true)

/-- The exact value of sample `i`, 0 past the end. -/
noncomputable def sampleValue (x : List F32) (i : Nat) : ℝ := (exactValue (x.getD i plusZero) : ℝ)

/-- Real part of bin `k` of the ideal forward transform `F_N` (R108). -/
noncomputable def idealFwdRe (n : Nat) (x : List F32) (k : Nat) : ℝ :=
  ∑ i ∈ Finset.range n, sampleValue x i * Real.cos (2 * Real.pi * k * i / n)

/-- Imaginary part of bin `k` of the ideal forward transform `F_N` (R108). -/
noncomputable def idealFwdIm (n : Nat) (x : List F32) (k : Nat) : ℝ :=
  -∑ i ∈ Finset.range n, sampleValue x i * Real.sin (2 * Real.pi * k * i / n)

/-- Sample `i` of the ideal unscaled inverse `G_N` (R109). -/
noncomputable def idealInv (n : Nat) (re im : Nat → ℝ) (i : Nat) : ℝ :=
  re 0 + (-1) ^ i * re (n / 2) +
    2 * ∑ k ∈ Finset.Ico 1 (n / 2),
      (re k * Real.cos (2 * Real.pi * k * i / n) - im k * Real.sin (2 * Real.pi * k * i / n))

/-- `BK-APPROX(ε)` at length `n` (R111). An infinity or a NaN differs from a real number by no amount, so every component
that is within the bound is finite. -/
def BkApprox (c : Config) (n : Nat) (ε : ℝ) : Prop :=
  (∀ x : List F32, x.length = n → (∀ v ∈ x, isFinite v = true) → ∀ y, bkFwd c n x = some y →
    ∀ k, k ≤ n / 2 → ∀ b, y[k]? = some b → isFinite b.re = true ∧ isFinite b.im = true ∧
      |(exactValue b.re : ℝ) - idealFwdRe n x k| ≤ ε * ∑ i ∈ Finset.range n, |sampleValue x i| ∧
      |(exactValue b.im : ℝ) - idealFwdIm n x k| ≤ ε * ∑ i ∈ Finset.range n, |sampleValue x i|) ∧
  (∀ x : List C32, x.length = n / 2 + 1 → finiteSpectrum x → ∀ y, bkInv c n x = some y →
    ∀ i, i < n → ∀ v, y[i]? = some v → isFinite v = true ∧
      |(exactValue v : ℝ) - idealInv n (sampleValue (x.map C32.re)) (sampleValue (x.map C32.im)) i| ≤
        ε * 2 * ∑ k ∈ Finset.range (n / 2 + 1), (|sampleValue (x.map C32.re) k| + |sampleValue (x.map C32.im) k|))

/-- `BK-APPROX(TOL)` (R7, R111, U12). -/
def BkWithinTol (c : Config) (n : Nat) : Prop := BkApprox c n (Config.tol : ℝ)

end Sys2Proof.Machine
end

