-- ==== Sys2Proof/WellFormed.lean ====
section
/-! DEFINITION. Which terms of `Instr` stand for a packet of their own. A term is ill-formed in one way only: `query` with
an `ARG` that is the number of a status register, because the table's register rows have those headers. -/

namespace Sys2Proof

/-- `ARG` is the number of a status register of R26: 0x00 to 0x06, 0x08 to 0x0C, 0x20 to 0x37. -/
def Arg.namesRegister (a : Arg) : Bool :=
  decide (a.toNat ≤ 0x06) || (decide (0x08 ≤ a.toNat) && decide (a.toNat ≤ 0x0C)) ||
    (decide (0x20 ≤ a.toNat) && decide (a.toNat ≤ 0x37))

/-- The operands are ones the encoding gives this constructor. -/
def Instr.wellFormed : Instr → Bool
  | .query arg _ => !arg.namesRegister
  | .construct _ _ => true
  | .reset _ _ => true
  | .mapFind _ _ => true
  | .mapFindMirror _ _ => true
  | .accZero _ _ => true
  | .processChannel _ _ => true
  | .rawTransform _ _ => true
  | .accRead _ _ => true
  | .streamTransform _ _ => true
  | .queryPhase _ => true
  | .queryErr _ => true
  | .queryErrInfo _ => true
  | .queryBlockSize _ => true
  | .queryMaxChannels _ => true
  | .queryMaxFftLen _ => true
  | .queryHasResampler _ => true
  | .querySamplesRequired _ => true
  | .querySampleLatency _ => true
  | .querySampleRate _ => true
  | .queryChannelCount _ => true
  | .queryAvailable _ => true
  | .queryPosition0 _ => true
  | .queryPosition1 _ => true
  | .queryPosition2 _ => true
  | .queryPosition3 _ => true
  | .queryPosition4 _ => true
  | .queryPosition5 _ => true
  | .queryPosition6 _ => true
  | .queryPosition7 _ => true
  | .queryPosition8 _ => true
  | .queryPosition9 _ => true
  | .queryPosition10 _ => true
  | .queryPosition11 _ => true
  | .queryPosition12 _ => true
  | .queryPosition13 _ => true
  | .queryPosition14 _ => true
  | .queryPosition15 _ => true
  | .queryPosition16 _ => true
  | .queryPosition17 _ => true
  | .queryPosition18 _ => true
  | .queryPosition19 _ => true
  | .queryPosition20 _ => true
  | .queryPosition21 _ => true
  | .queryPosition22 _ => true
  | .queryPosition23 _ => true

end Sys2Proof
end

