-- ==== Sys2Proof/Certificates/Slice0/Obligations.lean ====
section
/-! DEFINITION. The statements. Each says what a numbered rule of spec/ says of the machine; a docstring names the rule. -/

open Sys2Proof Sys2Proof.Machine

/-! ### Packets -/

/-- R71, R74, R26: no bit of a packet is dropped. Every instruction the decoder can give is what its packet decodes
to, whatever its operand and payload. -/
def Obligations.DecodeOfEncodeIsTheInstruction : Prop :=
  ∀ i : Instr, i.wellFormed = true → decode (encode i) = .ok i

/-- R71, R74, R26: two packets never carry the same instruction, and what the decoder gives is well-formed. -/
def Obligations.EncodeOfDecodeIsThePacket : Prop :=
  ∀ (p : Packet) (i : Instr), decode p = .ok i → encode i = p ∧ i.wellFormed = true

/-- R52: a byte-serial transport sends each word least significant byte first; the decoder reads the bytes of an
instruction back, whatever the payload. -/
def Obligations.ByteSerialPacketsDecode : Prop :=
  (∀ w : Word, (bytesOfWord w).map BitVec.toNat =
    [w.toNat % 256, w.toNat / 2 ^ 8 % 256, w.toNat / 2 ^ 16 % 256, w.toNat / 2 ^ 24]) ∧
  ∀ i : Instr, i.wellFormed = true → decodeBytes (encodeBytes i) = .ok i

/-- R74: the decoder refuses a packet exactly when its opcode is none of the ten assigned ones. -/
def Obligations.DecoderRefusesExactlyUnassignedOpcodes : Prop :=
  ∀ (p : Packet) (e : DecodeError), decode p = .error e ↔
    p.header.toNat / 2 ^ 24 ∉ [0x01, 0x02, 0x10, 0x11, 0x20, 0x21, 0x22, 0x23, 0x30, 0x40] ∧
    e = .unassignedOpcode (BitVec.ofNat 8 (p.header.toNat / 2 ^ 24))

/-- R71, R74, R26: headers written out from the spec's fields decode to the commands they stand for. -/
def Obligations.WrittenOutHeadersDecode : Prop :=
  decode ⟨0x01000007, [5]⟩ = .ok (.construct 7 [5]) ∧ decode ⟨0x02000000, []⟩ = .ok (.reset 0 []) ∧
  decode ⟨0x10000001, []⟩ = .ok (.mapFind 1 []) ∧ decode ⟨0x11000002, []⟩ = .ok (.mapFindMirror 2 []) ∧
  decode ⟨0x20000000, []⟩ = .ok (.accZero 0 []) ∧ decode ⟨0x21000001, [9]⟩ = .ok (.processChannel 1 [9]) ∧
  decode ⟨0x22000000, []⟩ = .ok (.rawTransform 0 []) ∧ decode ⟨0x23000000, []⟩ = .ok (.accRead 0 []) ∧
  decode ⟨0x30000200, []⟩ = .ok (.streamTransform 512 []) ∧ decode ⟨0x40000008, []⟩ = .ok (.querySamplesRequired []) ∧
  decode ⟨0x40000037, []⟩ = .ok (.queryPosition23 []) ∧ decode ⟨0x40000007, []⟩ = .ok (.query 7 [])

/-- R241: when the next host event is a packet that decodes to `i`, the step is the execution of `i` on the state from
which the packet has been taken. -/
def Obligations.StepRunsTheDecodedInstruction : Prop :=
  ∀ (s : State) (p : Packet) (rest : List HostEvent) (i : Instr),
    s.hostIn = .command p :: rest → decode p = .ok i → step s = exec i { s with hostIn := rest }

/-- R265: an unassigned opcode gets `BadOpcode`, in either phase, whatever `ARG` and the payload are. -/
def Obligations.UnassignedOpcodeAnswersBadOpcode : Prop :=
  ∀ (s : State) (p : Packet) (rest : List HostEvent), s.hostIn = .command p :: rest →
    p.header.toNat / 2 ^ 24 ∉ [0x01, 0x02, 0x10, 0x11, 0x20, 0x21, 0x22, 0x23, 0x30, 0x40] →
    step s = .next (failedWith { s with hostIn := rest } 0x10 (BitVec.ofNat 32 (p.header.toNat / 2 ^ 24)))

/-- R241, R275, R60: with nothing sent the engine waits and holds its state (a step of waiting is the model's, log entry 4);
words of two packets interleaved by two hosts have no meaning and are refused (log entry 6). -/
def Obligations.EngineWaitsAndRefusesInterleavedPackets : Prop :=
  (∀ s : State, s.hostIn = [] → step s = .next s) ∧
  ∀ (s : State) (ws : List Word) (rest : List HostEvent), s.hostIn = .interleaved ws :: rest →
    step s = .refused .interleavedPackets

/-! ### Reset -/

/-- R35, R7: the values that the spec states for reset, and the parameters at their defaults. -/
def Obligations.ResetStateHoldsTheStatedValues : Prop :=
  State.reset.phase = .empty ∧ State.reset.err = 0 ∧ State.reset.errInfo = 0 ∧
  State.reset.cfg.blockSize = 512 ∧ State.reset.cfg.maxFftLen = 65536 ∧ State.reset.cfg.hasResampler = false ∧
  State.reset.cfg.posExt = []

/-- R280: hardware reset gives phase EMPTY and an empty error latch, keeps the parameters, and sends no response,
whatever packet it cuts short. That it is one event, which completes the command before it or discards it whole, is the
model's choice (log entry 5). -/
def Obligations.HardwareResetClearsTheEngine : Prop :=
  ∀ (s : State) (discarded : List Word) (rest : List HostEvent), s.hostIn = .hardReset discarded :: rest →
    ∃ t, step s = .next t ∧ t.phase = .empty ∧ t.err = 0 ∧ t.errInfo = 0 ∧ t.cfg = s.cfg ∧
      t.hostIn = rest ∧ t.hostOut = s.hostOut

/-- R240, R281: RESET executes in both phases; it leaves the state of hardware reset and answers `OK`. -/
def Obligations.ResetCommandLeavesTheResetState : Prop :=
  ∀ s : State, exec (.reset 0 []) s = .next (answered (hardwareReset s) []) ∧
    (hardwareReset s).phase = .empty ∧ (hardwareReset s).err = 0 ∧ (hardwareReset s).errInfo = 0 ∧
    (hardwareReset s).cfg = s.cfg ∧ (hardwareReset s).hostIn = s.hostIn ∧ (hardwareReset s).hostOut = s.hostOut

/-! ### Errors -/

/-- R253: taking an error latches its code and information word and sends one response word
`(code << 24) | (info mod 2^24)`; nothing else changes. -/
def Obligations.TakingAnErrorLatchesAndAnswersOneWord : Prop :=
  ∀ (e : CoreError) (s : State), ∃ w : Word,
    w.toNat = (errorCode e).toNat * 2 ^ 24 + (errorInfo e).toNat % 2 ^ 24 ∧
    raiseError e s = .next { s with err := errorCode e, errInfo := errorInfo e, hostOut := s.hostOut ++ [⟨w, []⟩] }

/-- R82, R252: the code of every error and how its information word is made. -/
def Obligations.ErrorCodesAndInformationWords : Prop :=
  (∀ enc bits : BitVec 8, errorCode (.unsupportedFormat enc bits) = 0x01 ∧
    (errorInfo (.unsupportedFormat enc bits)).toNat = enc.toNat * 256 + bits.toNat) ∧
  (∀ n, errorCode (.tooManyChannels n) = 0x02 ∧ (errorInfo (.tooManyChannels n)).toNat = n % 2 ^ 32) ∧
  (∀ p, errorCode (.asymmetricHrir p) = 0x03 ∧ (errorInfo (.asymmetricHrir p)).toNat = p.toNat) ∧
  (∀ r, errorCode (.resamplingUnavailable r) = 0x04 ∧ errorInfo (.resamplingUnavailable r) = r) ∧
  ((∀ stage, errorCode (.transformBackendFailure stage) = 0x05) ∧ errorInfo (.transformBackendFailure .new) = 0 ∧
    errorInfo (.transformBackendFailure .initIr) = 1 ∧ errorInfo (.transformBackendFailure .runForward) = 2 ∧
    errorInfo (.transformBackendFailure .runInverse) = 3) ∧
  (∀ o, errorCode (.badOpcode o) = 0x10 ∧ (errorInfo (.badOpcode o)).toNat = o.toNat) ∧
  (∀ n, errorCode (.badLength n) = 0x11 ∧ (errorInfo (.badLength n)).toNat = n % 2 ^ 32) ∧
  (∀ w, errorCode (.badOperand w) = 0x12 ∧ errorInfo (.badOperand w) = w) ∧
  ((∀ p, errorCode (.badPhase p) = 0x13) ∧ errorInfo (.badPhase .empty) = 0 ∧ errorInfo (.badPhase .ready) = 1) ∧
  (∀ n, errorCode (.chunkTooLarge n) = 0x14 ∧ (errorInfo (.chunkTooLarge n)).toNat = n % 2 ^ 32)

/-- R70, R81, R24: every command sends exactly one response. An `OK` response carries its payload length and leaves
the error latch alone (RESET clears it); an error response carries no payload, and the latch holds what it says. -/
def Obligations.EveryCommandSendsOneResponse : Prop :=
  ∀ (i : Instr) (s t : State), exec i s = .next t →
    t.cfg = s.cfg ∧ t.hostIn = s.hostIn ∧ ∃ r, t.hostOut = s.hostOut ++ [r] ∧
      (r.code = 0 → r.info = BitVec.ofNat 24 r.payload.length ∧
        ((t.err = s.err ∧ t.errInfo = s.errInfo) ∨ (i = .reset 0 [] ∧ t.err = 0 ∧ t.errInfo = 0))) ∧
      (r.code ≠ 0 → r.payload = [] ∧ t.err = r.code ∧ t.errInfo.setWidth 24 = r.info)

/-- R24, R298 b: from a state with no fault recorded, after any number of steps that take no reset, no fault is
recorded exactly when every response was `OK`. -/
def Obligations.NoFaultRecordedExactlyWhenEveryResponseWasOk : Prop :=
  ∀ (k : Nat) (s t : State), noErrorRecorded s →
    (∀ e ∈ s.hostIn, (∀ ws, e ≠ .hardReset ws) ∧ ∀ p, e = .command p → ∀ a d, decode p ≠ .ok (.reset a d)) →
    Host.Core.run Sys2Proof.core k s = .next t →
    (noErrorRecorded t ↔ ∀ r ∈ t.hostOut.drop s.hostOut.length, r.code = 0)

/-- R242, R268: without an instance the seven READY commands answer `BadPhase(0)`, with one CONSTRUCT answers
`BadPhase(1)`, whatever the operands; nothing else changes. -/
def Obligations.CommandsInTheWrongPhaseAreRefused : Prop :=
  ∀ (s : State) (a : Arg) (d : List Word),
    (s.phase = .empty →
      exec (.mapFind a d) s = .next (failedWith s 0x13 0) ∧
      exec (.mapFindMirror a d) s = .next (failedWith s 0x13 0) ∧
      exec (.accZero a d) s = .next (failedWith s 0x13 0) ∧
      exec (.processChannel a d) s = .next (failedWith s 0x13 0) ∧
      exec (.rawTransform a d) s = .next (failedWith s 0x13 0) ∧
      exec (.accRead a d) s = .next (failedWith s 0x13 0) ∧
      exec (.streamTransform a d) s = .next (failedWith s 0x13 0)) ∧
    (s.phase = .ready → exec (.construct a d) s = .next (failedWith s 0x13 1))

/-- R85 check 3, R267: must-be-zero bits that are set, an unassigned position code and a channel index `≥ C` answer
`BadOperand(ARG)`; nothing else changes. -/
def Obligations.BadHeaderOperandsAreRefused : Prop :=
  ∀ (s : State) (a : Arg) (d : List Word),
    (a ≠ 0 → exec (.reset a d) s = .next (failedWith s 0x12 (a.setWidth 32))) ∧
    (s.phase = .ready →
      (a ≠ 0 →
        exec (.accZero a d) s = .next (failedWith s 0x12 (a.setWidth 32)) ∧
        exec (.rawTransform a d) s = .next (failedWith s 0x12 (a.setWidth 32)) ∧
        exec (.accRead a d) s = .next (failedWith s 0x12 (a.setWidth 32))) ∧
      (256 ≤ a.toNat ∨ positionOfCode s.cfg a.toNat = none →
        exec (.mapFind a d) s = .next (failedWith s 0x12 (a.setWidth 32)) ∧
        exec (.mapFindMirror a d) s = .next (failedWith s 0x12 (a.setWidth 32))) ∧
      (256 ≤ a.toNat ∨ s.channelCount ≤ a.toNat →
        exec (.processChannel a d) s = .next (failedWith s 0x12 (a.setWidth 32))))

/-- R85 check 4, R87, R266: a payload of the wrong length answers `BadLength` with the length the command requires, modulo
2^32 (0 for RESET, the lookups, ACC_ZERO, ACC_READ and every readable QUERY row); nothing else changes. -/
def Obligations.BadLengthsAreRefused : Prop :=
  ∀ (s : State) (a : Arg) (d : List Word),
    (d ≠ [] → exec (.reset 0 d) s = .next (failedWith s 0x11 0)) ∧
    (∀ row, queryRows.lookup a = some row → d ≠ [] →
      a.toNat ≤ 0x06 ∨ (s.phase = .ready ∧ (a.toNat ≤ 0x0C ∨ a.toNat - 0x20 < s.channelCount)) →
      exec (row d) s = .next (failedWith s 0x11 0)) ∧
    (s.phase = .ready →
      (d ≠ [] →
        exec (.accZero 0 d) s = .next (failedWith s 0x11 0) ∧
        exec (.accRead 0 d) s = .next (failedWith s 0x11 0) ∧
        (∀ p, a.toNat < 256 → positionOfCode s.cfg a.toNat = some p →
          exec (.mapFind a d) s = .next (failedWith s 0x11 0) ∧
          exec (.mapFindMirror a d) s = .next (failedWith s 0x11 0))) ∧
      (a.toNat < 256 → a.toNat < s.channelCount → d.length ≠ s.fftLen →
        exec (.processChannel a d) s = .next (failedWith s 0x11 (BitVec.ofNat 32 s.fftLen))) ∧
      (d.length ≠ s.channelCount * s.fftLen →
        exec (.rawTransform 0 d) s =
          .next (failedWith s 0x11 (BitVec.ofNat 32 (s.channelCount * s.fftLen)))) ∧
      (d.length ≠ a.toNat * s.channelCount →
        exec (.streamTransform a d) s =
          .next (failedWith s 0x11 (BitVec.ofNat 32 (a.toNat * s.channelCount)))))

/-! ### Invariants -/

/-- R35, R34: the reset state satisfies the invariant. The model's choice for the fields without a reset value (log
entry 12) makes the EMPTY part of it hold. -/
def Obligations.ResetStateSatisfiesTheInvariant : Prop := State.reset.Inv

/-- R34: every step keeps the invariant, from every state that satisfies it. Its EMPTY part (the fields without a reset
value are 0) is the model's choice, log entry 12. -/
def Obligations.StepKeepsTheInvariant : Prop :=
  ∀ s t : State, s.Inv → step s = .next t → t.Inv

/-- R53, R241: from a state that satisfies the invariant a step always answers a next state, unless two hosts
interleave their packets: no command reads an element that does not exist. -/
def Obligations.NoStepStopsUnderTheInvariant : Prop :=
  ∀ s : State, s.Inv → (∀ ws rest, s.hostIn ≠ .interleaved ws :: rest) → ∃ t, step s = .next t

/-- R34 f, R57, R294: a command leaves the FilterState, `MAP` and `IR` of a live instance as they are, unless it is a
RESET. -/
def Obligations.LiveInstanceIsImmutable : Prop :=
  ∀ (i : Instr) (s t : State), exec i s = .next t → s.phase = .ready → i ≠ .reset 0 [] →
    t.phase = .ready ∧ t.fftLen = s.fftLen ∧ t.sampleRate = s.sampleRate ∧ t.channelCount = s.channelCount ∧
    t.map = s.map ∧ t.ir = s.ir

/-- R23: `PHASE` changes only by a successful CONSTRUCT, to READY, and by RESET, to EMPTY. -/
def Obligations.PhaseChangesOnlyByConstructAndReset : Prop :=
  ∀ (i : Instr) (s t : State), exec i s = .next t → t.phase ≠ s.phase →
    ((∃ l d, i = .construct l d) ∧ t.phase = .ready ∧ t.err = s.err ∧ t.errInfo = s.errInfo) ∨
    (i = .reset 0 [] ∧ t.phase = .empty)

/-- R50: which commands write which buffer. `WIN` and `AVAILABLE` change only by CONSTRUCT, RESET and STREAM_TRANSFORM;
`MAP` and `IR` only by CONSTRUCT and RESET; `ACC` only by those, ACC_ZERO, PROCESS_CHANNEL and RAW_TRANSFORM. -/
def Obligations.BuffersChangeOnlyByTheirWriters : Prop :=
  ∀ (i : Instr) (s t : State), exec i s = .next t →
    (∀ a d, i ≠ .construct a d) → i ≠ .reset 0 [] →
    t.map = s.map ∧ t.ir = s.ir ∧
    ((∀ a d, i ≠ .streamTransform a d) →
      t.win = s.win ∧ t.available = s.available ∧
      ((∀ a d, i ≠ .processChannel a d) → (∀ a d, i ≠ .rawTransform a d) → i ≠ .accZero 0 [] → t.acc = s.acc))

/-- R55: QUERY, MAP_FIND, MAP_FIND_MIRROR and ACC_READ change no state other than `ERR` and `ERR_INFO`. -/
def Obligations.ReadCommandsHaveNoSideEffect : Prop :=
  ∀ (i : Instr) (s t : State), isReadCommand i = true → exec i s = .next t →
    t = { s with err := t.err, errInfo := t.errInfo, hostOut := t.hostOut }

/-- R34 e, R221: the windows are full between commands only after a STREAM_TRANSFORM that ended in
`TransformBackendFailure`. -/
def Obligations.WindowsAreFullOnlyAfterABackendFailure : Prop :=
  ∀ (i : Instr) (s t : State), s.Inv → (s.phase = .ready → s.available < s.fftLen) → exec i s = .next t →
    t.phase = .ready →
    t.available < t.fftLen ∨ ((∃ n d, i = .streamTransform n d) ∧ t.available = t.fftLen ∧ t.err = 0x05)

/-! ### ChannelMap -/

/-- R132, R131: the mirror table is an involution on the assigned positions; centre positions and LFE map to
themselves; the named pairs are each other's mirrors. -/
def Obligations.MirrorIsAnInvolution : Prop :=
  ∀ c : Config, c.wf →
    (∀ p, positionAssigned c p = true → mirror c (mirror c p) = p) ∧
    (∀ p ∈ [Position.FC, .LFE, .RC, .TFC, .TC, .TRC], mirror c p = p) ∧
    mirror c .FL = .FR ∧ mirror c .RL = .RR ∧ mirror c .FLC = .FRC ∧ mirror c .SL = .SR ∧
    mirror c .TFL = .TFR ∧ mirror c .TRL = .TRR

/-- R130: a code is assigned when it is one of 0 to 17, or one of 18 to 23 that `POS_EXT` supplies; `positionCode` is its
inverse. -/
def Obligations.PositionCodesFollowTheTable : Prop :=
  (∀ (c : Config) (k : Nat) (p : Position), positionOfCode c k = some p ↔
    positionAssigned c p = true ∧ (positionCode p).toNat = k) ∧
  (∀ (c : Config) (k : Nat), 24 ≤ k → positionOfCode c k = none) ∧
  ∀ c : Config, (List.range 18).map (positionOfCode c) =
    ([.FL, .FR, .FC, .LFE, .RL, .RR, .FLC, .FRC, .RC, .SL, .SR, .TFL, .TFR, .TFC, .TC, .TRL, .TRR, .TRC] :
      List Position).map some

/-- R134: `find(p)` is the smallest index that holds `p`, and `None` when no index does. -/
def Obligations.FindGivesTheSmallestIndex : Prop :=
  ∀ (map : List Position) (p : Position),
    (∀ i, find map p = some i ↔ map[i]? = some p ∧ ∀ j, j < i → map[j]? ≠ some p) ∧
    (find map p = none ↔ p ∉ map)

/-- R138: two positions that are each other's mirrors and occur once each are found from one another. -/
def Obligations.FindMirrorRoundTripsOnPairs : Prop :=
  ∀ (c : Config) (map : List Position) (i j : Nat) (p : Position), c.wf → positionAssigned c p = true →
    map[i]? = some p → map[j]? = some (mirror c p) → p ≠ mirror c p →
    (∀ k, map[k]? = some p → k = i) → (∀ k, map[k]? = some (mirror c p) → k = j) →
    findMirror c map p = some j ∧ findMirror c map (mirror c p) = some i

/-- R136, R137, R135, R84: MAP_FIND of an assigned position answers the smallest index that holds it, MAP_FIND_MIRROR the
smallest index that holds its mirror; neither answers a word when no index does; nothing else changes. -/
def Obligations.LookupsAnswerTheSmallestIndex : Prop :=
  ∀ (s : State) (a : Arg) (p : Position), s.phase = .ready → a.toNat < 256 →
    positionOfCode s.cfg a.toNat = some p →
    (p ∉ s.map → exec (.mapFind a []) s = .next (answered s [])) ∧
    (∀ i, s.map[i]? = some p → (∀ j, j < i → s.map[j]? ≠ some p) →
      exec (.mapFind a []) s = .next (answered s [BitVec.ofNat 32 i])) ∧
    (mirror s.cfg p ∉ s.map → exec (.mapFindMirror a []) s = .next (answered s [])) ∧
    ∀ i, s.map[i]? = some (mirror s.cfg p) → (∀ j, j < i → s.map[j]? ≠ some (mirror s.cfg p)) →
      exec (.mapFindMirror a []) s = .next (answered s [BitVec.ofNat 32 i])

/-! ### CONSTRUCT -/

/-- R150 to R160: CONSTRUCT with a well-formed packet, positions that all have a mirror, no change of rate or a resampler
attached, and forward transforms of its impulses that do not fail builds the instance: `N` as planned for the frames
after resampling, the rate of the data, the map as given, slot `2i` the spectrum of channel `i`'s normalised and
zero-padded impulse, slot `2i + 1` that of its mirror's; empty windows; `ERR`, `ERR_INFO` as they were. -/
def Obligations.ConstructBuildsTheInstance : Prop :=
  ∀ (s : State) (src dst rate : Word) (pos : List Position) (data rows : List (List F32)) (l frames n : Nat),
    s.phase = .empty → data.length = pos.length → (∀ row ∈ data, row.length = l) → l < 2 ^ 24 →
    pos.length ≤ 24 → (∀ p ∈ pos, positionAssigned s.cfg p = true) → (∀ p ∈ pos, mirror s.cfg p ∈ pos) →
    (dst = 0 ∨ dst = src ∨ s.cfg.hasResampler = true) → WorkingRecording src dst l data rate frames rows →
    n = nextPow2 (frames + s.cfg.blockSize + 1) → n ≤ s.cfg.maxFftLen → bkPlan s.cfg n pos.length = true →
    (∀ i, i < pos.length → bkFwd s.cfg n ((normalise rows frames).getD i [] ++ zeros (n - frames)) ≠ none) →
    ∃ t, exec (.construct (BitVec.ofNat 24 l) (constructPayload 1 32 src dst pos data)) s = .next t ∧
      t = { answered s [] with
              phase := .ready, fftLen := n, sampleRate := rate, channelCount := pos.length, map := pos, ir := t.ir,
              available := 0, win := List.replicate pos.length [], acc := t.acc, scratch := t.scratch,
              draws := t.draws } ∧
      t.ir.length = 2 * pos.length ∧
      ∀ i p m, pos[i]? = some p → pos[m]? = some (mirror s.cfg p) → (∀ j, j < m → pos[j]? ≠ some (mirror s.cfg p)) →
        t.ir[2 * i]? = bkFwd s.cfg n ((normalise rows frames).getD i [] ++ zeros (n - frames)) ∧
        t.ir[2 * i + 1]? = bkFwd s.cfg n ((normalise rows frames).getD m [] ++ zeros (n - frames))

/-- R154, R107: every sample is divided once by `hrir_max × 2.5`; a frame's sum runs over the channels in order from
`+0.0`; `hrir_max` is `+0.0` or a frame's sum, never a NaN, and no frame's sum is greater. -/
def Obligations.NormalisationFollowsTheFormula : Prop :=
  ∀ (rows : List (List F32)) (frames : Nat),
    (∀ c t : Nat, ((normalise rows frames)[c]?.bind fun row => row[t]?) =
      (rows[c]?.bind fun row : List F32 => row[t]?).map fun x => fdiv x (fmul (hrirMax rows frames) 0x40200000#32)) ∧
    (∀ t, frameSum [] t = 0x00000000#32) ∧
    (∀ row t x, row[t]? = some x → frameSum (rows ++ [row]) t = fadd (frameSum rows t) (x &&& 0x7FFFFFFF#32)) ∧
    (hrirMax rows frames = 0x00000000#32 ∨ ∃ t, t < frames ∧ hrirMax rows frames = frameSum rows t) ∧
    isNaN (hrirMax rows frames) = false ∧
    ∀ t, t < frames → fgt (frameSum rows t) (hrirMax rows frames) = false

/-- R155, R117 a: `fft_len` is the smallest power of two that is at least `L + B + 1`. -/
def Obligations.FftLenIsTheSmallestPowerOfTwo : Prop :=
  ∀ (c : Config) (l : Nat), (∃ e, planFftLen c l = 2 ^ e) ∧ l + c.blockSize + 1 ≤ planFftLen c l ∧
    ∀ e, l + c.blockSize + 1 ≤ 2 ^ e → planFftLen c l ≤ 2 ^ e

/-- R153: a requested rate that differs from the source rate is resampled to, if there is a resampler, and is an error
otherwise; else nothing happens and the source rate is kept. -/
def Obligations.ResamplingHappensExactlyWhenNeeded : Prop :=
  ∀ (c : Config) (r : Recording),
    (r.dstRate = 0 ∨ r.dstRate = r.srcRate → resampleStep c r = .ok (r, r.srcRate)) ∧
    (r.dstRate ≠ 0 → r.dstRate ≠ r.srcRate → c.hasResampler = false →
      resampleStep c r = .error (.resamplingUnavailable r.dstRate)) ∧
    (r.dstRate ≠ 0 → r.dstRate ≠ r.srcRate → c.hasResampler = true →
      ∃ r', resampleStep c r = .ok (r', r.dstRate) ∧ r'.positions = r.positions ∧ r'.rows.length = r.rows.length ∧
        r'.frames = (Config.resample r.rows r.srcRate r.dstRate r.rows.length).1 ∧
        (∀ row ∈ r'.rows, row.length = r'.frames) ∧
        ∀ ch t, ch < r.rows.length → t < r'.frames → (r'.rows[ch]?.bind fun row => row[t]?) =
          some ((Config.resample r.rows r.srcRate r.dstRate r.rows.length).2 ch t))

/-- R151: the packet checks of CONSTRUCT, in their order; nothing but the error latch changes. -/
def Obligations.ConstructChecksItsPacketInOrder : Prop :=
  ∀ (s : State) (l : Arg), s.phase = .empty →
    (∀ d : List Word, d.length < 4 → exec (.construct l d) s = .next (failedWith s 0x11 4)) ∧
    ∀ (fmt cin src dst : Word) (rest : List Word),
      (rest.length ≠ cin.toNat + cin.toNat * l.toNat →
        exec (.construct l (fmt :: cin :: src :: dst :: rest)) s =
          .next (failedWith s 0x11 (BitVec.ofNat 32 (4 + cin.toNat + cin.toNat * l.toNat)))) ∧
      (rest.length = cin.toNat + cin.toNat * l.toNat →
        (2 ^ 16 ≤ fmt.toNat →
          exec (.construct l (fmt :: cin :: src :: dst :: rest)) s = .next (failedWith s 0x12 fmt)) ∧
        (fmt.toNat < 2 ^ 16 → ∀ k w, k < cin.toNat → rest[k]? = some w →
          (256 ≤ w.toNat ∨ positionOfCode s.cfg w.toNat = none) →
          (∀ j v, j < k → rest[j]? = some v → v.toNat < 256 ∧ positionOfCode s.cfg v.toNat ≠ none) →
          exec (.construct l (fmt :: cin :: src :: dst :: rest)) s = .next (failedWith s 0x12 w)))

/-- R254 (7), R152, R153, R156, R157, R158, R159: which error a well-formed CONSTRUCT packet answers, in the order of the
steps, with and without resampling. `PHASE` stays EMPTY, and nothing but the error latch and the scratch buffers
changes. -/
def Obligations.ConstructStepsFailInOrder : Prop :=
  ∀ (s : State) (enc bits : BitVec 8) (src dst rate : Word) (pos : List Position) (data rows : List (List F32))
    (l frames n : Nat),
    s.phase = .empty → data.length = pos.length → (∀ row ∈ data, row.length = l) → l < 2 ^ 24 →
    pos.length < 2 ^ 32 → (∀ p ∈ pos, positionAssigned s.cfg p = true) →
    WorkingRecording src dst l data rate frames rows → n = nextPow2 (frames + s.cfg.blockSize + 1) →
    let failsWith : BitVec 8 → Word → Prop := fun code info => ∃ t,
      exec (.construct (BitVec.ofNat 24 l) (constructPayload enc bits src dst pos data)) s = .next t ∧
      t = { failedWith s code info with scratch := t.scratch, draws := t.draws }
    if ¬(enc = 1 ∧ bits = 32) then failsWith 0x01 (BitVec.ofNat 32 (enc.toNat * 256 + bits.toNat))
    else if dst ≠ 0 ∧ dst ≠ src ∧ s.cfg.hasResampler = false then failsWith 0x04 dst
    else if 24 < pos.length then failsWith 0x02 (BitVec.ofNat 32 pos.length)
    else if s.cfg.maxFftLen < n ∨ bkPlan s.cfg n pos.length = false then failsWith 0x05 0
    else
      (∀ (i : Nat) (p : Position), pos[i]? = some p → mirror s.cfg p ∉ pos →
        (∀ j q, j < i → pos[j]? = some q → mirror s.cfg q ∈ pos) →
        failsWith 0x03 ((positionCode p).setWidth 32)) ∧
      ((∀ p ∈ pos, mirror s.cfg p ∈ pos) →
        ∀ i, i < pos.length → bkFwd s.cfg n ((normalise rows frames).getD i [] ++ zeros (n - frames)) = none →
          failsWith 0x05 1)

/-- R161: a CONSTRUCT in phase EMPTY either succeeds, or leaves the phase EMPTY and changes nothing but the error
latch and the scratch buffers. -/
def Obligations.FailedConstructLeavesNoInstance : Prop :=
  ∀ (s t : State) (l : Arg) (d : List Word), s.phase = .empty → exec (.construct l d) s = .next t →
    (t.phase = .ready ∧ t.err = s.err ∧ t.errInfo = s.errInfo) ∨
    (t.err ≠ 0 ∧ t = { s with err := t.err, errInfo := t.errInfo, hostOut := t.hostOut, scratch := t.scratch,
                              draws := t.draws })

/-! ### The engine and the Raw Filter -/

/-- R182, R180, R104: PROCESS_CHANNEL adds to each ear's block the last `B` samples of the inverse transform of the
bin-by-bin complex product of the window's spectrum with that ear's impulse response (four products, one difference,
one sum), each scaled by `1/N`; nothing else of the instance changes. -/
def Obligations.ProcessChannelAddsTheChannelsBlock : Prop :=
  ∀ (s : State) (a : Arg) (w : List Word) (spec left right pl pr : List C32) (yl yr : List F32),
    s.Inv → s.phase = .ready → a.toNat < 256 → a.toNat < s.channelCount → w.length = s.fftLen →
    bkFwd s.cfg s.fftLen w = some spec →
    s.ir[2 * a.toNat]? = some left → s.ir[2 * a.toNat + 1]? = some right →
    let product : List C32 → List C32 → Prop := fun ir p => p.length = s.fftLen / 2 + 1 ∧
      ∀ (k : Nat) (x y : C32), spec[k]? = some x → ir[k]? = some y →
        p[k]? = some ⟨fsub (fmul x.re y.re) (fmul x.im y.im), fadd (fmul x.re y.im) (fmul x.im y.re)⟩
    product left pl → product right pr →
    bkInv s.cfg s.fftLen pl = some yl → bkInv s.cfg s.fftLen pr = some yr →
    ∃ t, exec (.processChannel a w) s = .next t ∧
      t = { answered s [] with acc := t.acc, scratch := t.scratch, draws := t.draws } ∧
      t.acc.left.length = s.cfg.blockSize ∧ t.acc.right.length = s.cfg.blockSize ∧
      ∀ j, j < s.cfg.blockSize → ∀ al ar xl xr,
        s.acc.left[j]? = some al → s.acc.right[j]? = some ar →
        yl[s.fftLen - s.cfg.blockSize + j]? = some xl → yr[s.fftLen - s.cfg.blockSize + j]? = some xr →
        t.acc.left[j]? = some (fadd al (fmul xl (invN s.fftLen))) ∧
        t.acc.right[j]? = some (fadd ar (fmul xr (invN s.fftLen)))

/-- R181, R182, R196, R264: a forward transform that fails at run time ends PROCESS_CHANNEL with
`TransformBackendFailure(2)`, an inverse transform that fails, of either ear, with `TransformBackendFailure(3)`;
RAW_TRANSFORM ends so with the stage of its first channel that fails. Only `ACC`, the scratch buffers and the error latch
change. -/
def Obligations.ProcessChannelReportsABackendFailure : Prop :=
  ∀ s : State, s.phase = .ready →
    let fails : Instr → Word → Prop := fun i stage => ∃ t, exec i s = .next t ∧
      t = { failedWith s 0x05 stage with acc := t.acc, scratch := t.scratch, draws := t.draws }
    (∀ (a : Arg) (w : List Word), a.toNat < 256 → a.toNat < s.channelCount → w.length = s.fftLen →
      (bkFwd s.cfg s.fftLen w = none → fails (.processChannel a w) 2) ∧
      ∀ stage, s.Inv → ChannelFails s a.toNat w stage → fails (.processChannel a w) stage) ∧
    ∀ (ws : List (List F32)) (c : Nat) (stage : Word), s.Inv → ws.length = s.channelCount →
      (∀ w ∈ ws, w.length = s.fftLen) → FirstChannelFails s ws c stage →
      fails (.rawTransform 0 ws.flatten) stage

/-- R196, R89, R286: RAW_TRANSFORM leaves in `ACC` exactly what one PROCESS_CHANNEL per channel, in order, leaves, and
changes nothing else of the instance; with no channels it changes nothing. For data that makes NaNs the equality is the
model's: a NaN is a function of its operands there (log entry 9). -/
def Obligations.RawTransformIsOneProcessChannelPerChannel : Prop :=
  ∀ (s : State) (ws : List (List F32)), s.Inv → s.phase = .ready → BkTotal s.cfg s.fftLen →
    ws.length = s.channelCount → (∀ w ∈ ws, w.length = s.fftLen) →
    ∃ t u, exec (assemble (.rawTransform ws)) s = .next t ∧
      execAll (ws.mapIdx fun c w => assemble (.processChannel (BitVec.ofNat 8 c) w)) s = .next u ∧
      t = { answered s [] with acc := t.acc, scratch := t.scratch, draws := t.draws } ∧ t.acc = u.acc ∧
      (ws = [] → t = answered s [])

/-- R208, R184: ACC_ZERO and then RAW_TRANSFORM of windows of zeros, with finite impulse responses and a backend with
`BK-ZERO`, leave `ACC` all `+0.0`, exactly. -/
def Obligations.ZeroWindowsGiveAZeroBlock : Prop :=
  ∀ (s : State) (ws : List (List F32)), s.Inv → s.phase = .ready → BkTotal s.cfg s.fftLen →
    BkZero s.cfg s.fftLen → (∀ slot ∈ s.ir, finiteSpectrum slot) →
    ws.length = s.channelCount → (∀ w ∈ ws, w.length = s.fftLen ∧ ∀ v ∈ w, isZero v = true) →
    ∃ t, execAll [assemble .accZero, assemble (.rawTransform ws)] s = .next t ∧
      t.acc.left = zeros s.cfg.blockSize ∧ t.acc.right = zeros s.cfg.blockSize

/-- R206: what RAW_TRANSFORM answers and leaves in `ACC` depends only on the payload, the FilterState, `IR` and the prior
`ACC`; not on the windows, the map, the error latch or the unspecified contents. For data that makes NaNs that is the
model's: a NaN is a function of its operands there (log entry 9). -/
def Obligations.RawTransformDependsOnlyOnItsInputs : Prop :=
  ∀ (s u t : State) (a : Arg) (d : List Word), s.cfg = u.cfg → s.phase = u.phase → s.fftLen = u.fftLen →
    s.channelCount = u.channelCount → s.ir = u.ir → s.acc = u.acc → exec (.rawTransform a d) s = .next t →
    ∃ t' r, exec (.rawTransform a d) u = .next t' ∧ t.hostOut = s.hostOut ++ [r] ∧ t'.hostOut = u.hostOut ++ [r] ∧
      (r.code ≠ 0x05 → t'.acc = t.acc)

/-- R195: ACC_ZERO makes every accumulator element `+0.0` and changes nothing else. -/
def Obligations.AccZeroClearsTheAccumulators : Prop :=
  ∀ s : State, s.phase = .ready → ∃ t, exec (.accZero 0 []) s = .next t ∧
    t = { answered s [] with acc := t.acc } ∧
    t.acc.left.length = s.cfg.blockSize ∧ t.acc.right.length = s.cfg.blockSize ∧
    (∀ v ∈ t.acc.left, v = 0x00000000#32) ∧ ∀ v ∈ t.acc.right, v = 0x00000000#32

/-- R197, R79: ACC_READ answers the `2B` accumulator words bit for bit, the left block and then the right block, and
changes nothing. -/
def Obligations.AccReadAnswersBothBlocks : Prop :=
  ∀ s : State, s.Inv → s.phase = .ready → ∃ d : List Word, exec (.accRead 0 []) s = .next (answered s d) ∧
    d.length = 2 * s.cfg.blockSize ∧
    ∀ j, j < s.cfg.blockSize → d[j]? = s.acc.left[j]? ∧ d[s.cfg.blockSize + j]? = s.acc.right[j]?

/-! ### The Streaming Filter -/

/-- R218, R216: a chunk that does not fill the windows is appended and answers no payload; nothing else changes. -/
def Obligations.FillPhaseAbsorbsSilently : Prop :=
  ∀ (s : State) (n : Arg) (d : List Word), s.Inv → s.phase = .ready → d.length = n.toNat * s.channelCount →
    s.available + n.toNat < s.fftLen →
    exec (.streamTransform n d) s =
      .next (answered { s with win := windowsAfter s n.toNat d, available := s.available + n.toNat } [])

/-- R219, R220, R217: a chunk that fills the windows produces one block: what ACC_ZERO and RAW_TRANSFORM of the full windows
leave in `ACC`, clipped, stays in `ACC` and is sent interleaved; every window then loses its `B` oldest samples;
nothing else of the instance changes. For data that makes NaNs the equality with the raw run is the model's: a NaN
is a function of its operands, and clipped it is a function of the NaN (log entries 9 and 10). -/
def Obligations.FullWindowsProduceOneBlock : Prop :=
  ∀ (s : State) (n : Arg) (d : List Word), s.Inv → s.phase = .ready → d.length = n.toNat * s.channelCount →
    n.toNat ≤ s.fftLen → s.fftLen ≤ s.available + n.toNat → BkTotal s.cfg s.fftLen →
    ∃ t u out, exec (.streamTransform n d) s = .next t ∧
      execAll [assemble .accZero, assemble (.rawTransform (windowsAfter s n.toNat d))] s = .next u ∧
      t = { answered s out with
              win := (windowsAfter s n.toNat d).map (List.drop s.cfg.blockSize),
              available := s.fftLen - s.cfg.blockSize,
              acc := t.acc, scratch := t.scratch, draws := t.draws } ∧
      t.acc.left = u.acc.left.map clip ∧ t.acc.right = u.acc.right.map clip ∧
      out.length = 2 * s.cfg.blockSize ∧
      ∀ j, j < s.cfg.blockSize → out[2 * j]? = t.acc.left[j]? ∧ out[2 * j + 1]? = t.acc.right[j]?

/-- R222: from `AVAILABLE = N − B` a chunk of `B` frames yields exactly one block of `B` stereo samples, drops no
sample, and leaves `AVAILABLE = N − B`. -/
def Obligations.SteadyStateIsOneBlockInOneBlockOut : Prop :=
  ∀ (s : State) (n : Arg) (d : List Word), s.Inv → s.phase = .ready → BkTotal s.cfg s.fftLen →
    n.toNat = s.cfg.blockSize → d.length = n.toNat * s.channelCount →
    s.available = s.fftLen - s.cfg.blockSize →
    ∃ t r, exec (.streamTransform n d) s = .next t ∧ t.hostOut = s.hostOut ++ [r] ∧ r.code = 0 ∧
      r.payload.length = 2 * s.cfg.blockSize ∧ t.available = s.fftLen - s.cfg.blockSize ∧
      ∀ c w, s.win[c]? = some w →
        t.win[c]? = some ((w ++ channelSamples n.toNat s.channelCount d c).drop s.cfg.blockSize)

/-- R221, R264: when a transform of any channel fails, forward or inverse, the command answers the stage of the first
channel that fails; the chunk stays appended, the windows do not slide and `AVAILABLE` is `N`; no payload is sent. -/
def Obligations.StreamingBackendFailureKeepsTheChunk : Prop :=
  ∀ (s : State) (n : Arg) (d : List Word) (c : Nat) (stage : Word), s.Inv → s.phase = .ready →
    d.length = n.toNat * s.channelCount → n.toNat ≤ s.fftLen → s.fftLen ≤ s.available + n.toNat →
    FirstChannelFails s (windowsAfter s n.toNat d) c stage →
    ∃ t, exec (.streamTransform n d) s = .next t ∧
      t = { failedWith s 0x05 stage with
              win := windowsAfter s n.toNat d, available := s.fftLen,
              acc := t.acc, scratch := t.scratch, draws := t.draws }

/-- R226, R269: a chunk of more than `N` frames answers `ChunkTooLarge(n)` and changes nothing else. -/
def Obligations.OversizedChunkIsRefused : Prop :=
  ∀ (s : State) (n : Arg) (d : List Word), s.phase = .ready → d.length = n.toNat * s.channelCount →
    s.fftLen < n.toNat → exec (.streamTransform n d) s = .next (failedWith s 0x14 (BitVec.ofNat 32 n.toNat))

/-- R225, R115: every word of a STREAM_TRANSFORM payload is what `clip` answers, so a value in `[-1.0, 1.0]`, or the open value
for a NaN. `clip` answers 1.0 above the range and -1.0 below it, the infinities among them; a value in the range
passes bit for bit. -/
def Obligations.StreamingOutputIsClamped : Prop :=
  (∀ (s t : State) (n : Arg) (d : List Word) (r : Response), exec (.streamTransform n d) s = .next t →
    t.hostOut = s.hostOut ++ [r] →
    ∀ w ∈ r.payload, (isFinite w = true ∧ |exactValue w| ≤ 1) ∨ ∃ v, isNaN v = true ∧ w = Config.clipNan v) ∧
  (∀ (s t : State) (n : Arg) (d : List Word) (r : Response), exec (.streamTransform n d) s = .next t →
    t.hostOut = s.hostOut ++ [r] → ∀ w ∈ r.payload, ∃ v, w = clip v) ∧
  (∀ v, isFinite v = true → 1 < exactValue v → clip v = 0x3F800000#32) ∧
  (∀ v, isFinite v = true → exactValue v < -1 → clip v = 0xBF800000#32) ∧
  clip 0x7F800000#32 = 0x3F800000#32 ∧ clip 0xFF800000#32 = 0xBF800000#32 ∧
  (∀ v, isNaN v = true → clip v = Config.clipNan v) ∧
  ∀ v, isFinite v = true → |exactValue v| ≤ 1 → clip v = v

/-- R224: chunking independence. If every call finds `AVAILABLE + n ≤ N`, the chunks and the same frames sent one by one
give the same joined payload bit for bit, and end with equal windows, cursor and accumulators. For data that makes NaNs
that is the model's: a NaN is a function of its operands, and clipped it is a function of the NaN (log entries 9
and 10). -/
def Obligations.ChunkingDoesNotChangeTheStream : Prop :=
  ∀ (s : State) (chunks : List (List (List F32))), s.Inv → s.phase = .ready → s.available < s.fftLen →
    BkTotal s.cfg s.fftLen → streamFits s chunks →
    ∃ t u out, streamRun s chunks = some (t, out) ∧
      streamRun s (chunks.flatten.map fun frame => [frame]) = some (u, out) ∧
      t.win = u.win ∧ t.available = u.available ∧ t.acc = u.acc

/-- R223: from empty windows, calls that together supply fewer than `N` frames produce no output. -/
def Obligations.NoOutputBeforeTheWindowsAreFull : Prop :=
  ∀ (s : State) (chunks : List (List (List F32))), s.Inv → s.phase = .ready → s.available = 0 →
    streamFits s chunks → chunks.flatten.length < s.fftLen →
    ∃ t, streamRun s chunks = some (t, []) ∧ t.available = chunks.flatten.length

/-! ### QUERY -/

/-- R198, R200, R205: the registers 0x00 to 0x06 answer their value in both phases and change nothing. -/
def Obligations.QueryOfEngineRegistersAnswersInAnyPhase : Prop :=
  ∀ s : State,
    exec (.queryPhase []) s = .next (answered s [match s.phase with | .empty => 0 | .ready => 1]) ∧
    exec (.queryErr []) s = .next (answered s [s.err.setWidth 32]) ∧
    exec (.queryErrInfo []) s = .next (answered s [s.errInfo]) ∧
    exec (.queryBlockSize []) s = .next (answered s [BitVec.ofNat 32 s.cfg.blockSize]) ∧
    exec (.queryMaxChannels []) s = .next (answered s [24]) ∧
    exec (.queryMaxFftLen []) s = .next (answered s [BitVec.ofNat 32 s.cfg.maxFftLen]) ∧
    exec (.queryHasResampler []) s = .next (answered s [if s.cfg.hasResampler then 1 else 0])

/-- R198, R199, R201, R202, R203, R205: the registers 0x08 to 0x0C answer the instance's values in READY and change nothing;
in EMPTY they answer `BadPhase(0)`. -/
def Obligations.QueryOfFilterRegistersNeedsAnInstance : Prop :=
  ∀ s : State,
    (s.phase = .ready →
      exec (.querySamplesRequired []) s = .next (answered s [BitVec.ofNat 32 s.fftLen]) ∧
      exec (.querySampleLatency []) s = .next (answered s [BitVec.ofNat 32 (s.fftLen - s.cfg.blockSize)]) ∧
      exec (.querySampleRate []) s = .next (answered s [s.sampleRate]) ∧
      exec (.queryChannelCount []) s = .next (answered s [BitVec.ofNat 32 s.channelCount]) ∧
      exec (.queryAvailable []) s = .next (answered s [BitVec.ofNat 32 s.available])) ∧
    (s.phase = .empty → ∀ d,
      exec (.querySamplesRequired d) s = .next (failedWith s 0x13 0) ∧
      exec (.querySampleLatency d) s = .next (failedWith s 0x13 0) ∧
      exec (.querySampleRate d) s = .next (failedWith s 0x13 0) ∧
      exec (.queryChannelCount d) s = .next (failedWith s 0x13 0) ∧
      exec (.queryAvailable d) s = .next (failedWith s 0x13 0))

/-- R204, R198: QUERY of `POSITION[i]`, for each of the 24 rows of the table, answers the code of `MAP[i]` when `i < C`, and
`BadOperand(0x20 + i)` when `i ≥ C`; in phase EMPTY it answers `BadPhase(0)`; nothing else changes. -/
def Obligations.QueryOfPositionsAnswersTheMap : Prop :=
  ∀ (s : State) (i : Nat) (row : List Word → Instr),
    [Instr.queryPosition0, .queryPosition1, .queryPosition2, .queryPosition3, .queryPosition4, .queryPosition5,
      .queryPosition6, .queryPosition7, .queryPosition8, .queryPosition9, .queryPosition10, .queryPosition11,
      .queryPosition12, .queryPosition13, .queryPosition14, .queryPosition15, .queryPosition16, .queryPosition17,
      .queryPosition18, .queryPosition19, .queryPosition20, .queryPosition21, .queryPosition22,
      .queryPosition23][i]? = some row →
    (∀ p, s.phase = .ready → i < s.channelCount → s.map[i]? = some p →
      exec (row []) s = .next (answered s [(positionCode p).setWidth 32])) ∧
    (s.phase = .empty → ∀ d, exec (row d) s = .next (failedWith s 0x13 0)) ∧
    (s.phase = .ready → s.channelCount ≤ i → ∀ d, exec (row d) s = .next (failedWith s 0x12 (BitVec.ofNat 32 (0x20 + i))))

/-- R198, R26: QUERY with the number of a register does what that register's row of the table does, so it answers one word
where the register is readable; with any other `ARG` it answers `BadOperand(ARG)`, in either phase. -/
def Obligations.QueryAgreesWithItsRegisterRows : Prop :=
  ∀ (s : State) (a : Arg) (d : List Word),
    (∀ row, queryRows.lookup a = some row → exec (.query a d) s = exec (row d) s) ∧
    (queryRows.lookup a = none → exec (.query a d) s = .next (failedWith s 0x12 (a.setWidth 32))) ∧
    (a.toNat ≤ 0x06 → ∃ w, exec (.query a []) s = .next (answered s [w])) ∧
    (s.phase = .ready → 0x08 ≤ a.toNat → a.toNat ≤ 0x0C → ∃ w, exec (.query a []) s = .next (answered s [w])) ∧
    (s.phase = .ready → 0x20 ≤ a.toNat → a.toNat ≤ 0x37 → ∀ p, a.toNat - 0x20 < s.channelCount →
      s.map[a.toNat - 0x20]? = some p → exec (.query a []) s = .next (answered s [(positionCode p).setWidth 32]))

/-! ### Arithmetic -/

/-- R101, R100: the sum, difference, product and quotient of finite values are the exact real result rounded once, to
nearest, ties to even. -/
def Obligations.ArithmeticRoundsOnceToNearestEven : Prop :=
  ∀ a b : F32, isFinite a = true → isFinite b = true →
    roundsTo (exactValue a + exactValue b) (fadd a b) ∧ roundsTo (exactValue a - exactValue b) (fsub a b) ∧
    roundsTo (exactValue a * exactValue b) (fmul a b) ∧
    (isZero b = false → roundsTo (exactValue a / exactValue b) (fdiv a b))

/-- R101, R102, R103: the arithmetic at zeros, infinities and NaNs, where no exact real result is rounded; the signs of
products, quotients and zeros; and the comparisons, on ordinary values, zeros, infinities and NaNs. -/
def Obligations.ArithmeticSpecialCases : Prop :=
  -- sums and differences
  (∀ x, isFinite x = true → fadd x (fneg x) = 0x00000000#32) ∧
  fadd 0x00000000#32 0x80000000#32 = 0x00000000#32 ∧ fadd 0x80000000#32 0x80000000#32 = 0x80000000#32 ∧
  (∀ x y, isInf x = true → isInf y = true →
    if signBit x = signBit y then fadd x y = x ∧ isNaN (fsub x y) = true else isNaN (fadd x y) = true ∧ fsub x y = x) ∧
  (∀ x y, isInf x = true → isFinite y = true → fadd x y = x ∧ fadd y x = x ∧ fsub x y = x ∧ fsub y x = fneg x) ∧
  (∀ x y, isNaN (fsub x y) = false → fsub x y = fadd x (fneg y)) ∧
  -- products and quotients
  (∀ x y, isZero x = true → isInf y = true → isNaN (fmul x y) = true ∧ isNaN (fmul y x) = true) ∧
  (∀ x y, isInf x = true → isInf y = true → isInf (fmul x y) = true ∧ isNaN (fdiv x y) = true) ∧
  (∀ x y, isInf x = true → isFinite y = true → isInf (fdiv x y) = true ∧ isZero (fdiv y x) = true ∧
    (isZero y = false → isInf (fmul x y) = true ∧ isInf (fmul y x) = true)) ∧
  (∀ x y, isZero x = true → isZero y = true → isNaN (fdiv x y) = true) ∧
  (∀ x y, isFinite x = true → isZero x = false → isZero y = true → isInf (fdiv x y) = true) ∧
  (∀ x y, isNaN (fmul x y) = false → signBit (fmul x y) = (signBit x ^^ signBit y)) ∧
  (∀ x y, isNaN (fdiv x y) = false → signBit (fdiv x y) = (signBit x ^^ signBit y)) ∧
  -- NaN operands
  (∀ x y, isNaN x = true ∨ isNaN y = true →
    isNaN (fadd x y) = true ∧ isNaN (fsub x y) = true ∧ isNaN (fmul x y) = true ∧ isNaN (fdiv x y) = true ∧
    fgt x y = false ∧ flt x y = false) ∧
  -- comparisons
  (∀ x y, isFinite x = true → isFinite y = true →
    (fgt x y = true ↔ exactValue y < exactValue x) ∧ (flt x y = true ↔ exactValue x < exactValue y)) ∧
  (∀ x, isNaN x = false →
    fgt x 0x7F800000#32 = false ∧ flt x 0xFF800000#32 = false ∧
    (fgt 0x7F800000#32 x = true ↔ x ≠ 0x7F800000#32) ∧ (flt 0xFF800000#32 x = true ↔ x ≠ 0xFF800000#32)) ∧
  (∀ x y, fgt x y = flt y x) ∧
  -- sign and magnitude
  (∀ x, (fabs x).toNat = x.toNat % 2 ^ 31) ∧
  ∀ x, (fneg x).toNat = (x.toNat + 2 ^ 31) % 2 ^ 32

/-- R105: for `N` a power of two in the range of `fft_len`, multiplying by `INVN` and dividing by `N` are the same function
of every value that is not a NaN. -/
def Obligations.ScalingByInvNIsDivisionByN : Prop :=
  ∀ (e : Nat) (x : F32), 1 ≤ e → e ≤ 31 → isNaN x = false →
    ∃ n : F32, isFinite n = true ∧ exactValue n = (2 : ℚ) ^ e ∧ fmul x (invN (2 ^ e)) = fdiv x n
end

