-- ==== Sys2Proof/Laws/State.lean ====
section
/-! SUPPORT. One lemma per field per update of State. -/

namespace Sys2Proof.Machine

variable (s : State)

@[simp] theorem State.latchError_cfg (e : CoreError) : (State.latchError e s).cfg = s.cfg := rfl
@[simp] theorem State.latchError_phase (e : CoreError) : (State.latchError e s).phase = s.phase := rfl
@[simp] theorem State.latchError_err (e : CoreError) : (State.latchError e s).err = errorCode e := rfl
@[simp] theorem State.latchError_errInfo (e : CoreError) : (State.latchError e s).errInfo = errorInfo e := rfl
@[simp] theorem State.latchError_fftLen (e : CoreError) : (State.latchError e s).fftLen = s.fftLen := rfl
@[simp] theorem State.latchError_sampleRate (e : CoreError) : (State.latchError e s).sampleRate = s.sampleRate := rfl
@[simp] theorem State.latchError_channelCount (e : CoreError) : (State.latchError e s).channelCount = s.channelCount := rfl
@[simp] theorem State.latchError_map (e : CoreError) : (State.latchError e s).map = s.map := rfl
@[simp] theorem State.latchError_ir (e : CoreError) : (State.latchError e s).ir = s.ir := rfl
@[simp] theorem State.latchError_available (e : CoreError) : (State.latchError e s).available = s.available := rfl
@[simp] theorem State.latchError_win (e : CoreError) : (State.latchError e s).win = s.win := rfl
@[simp] theorem State.latchError_acc (e : CoreError) : (State.latchError e s).acc = s.acc := rfl
@[simp] theorem State.latchError_scratch (e : CoreError) : (State.latchError e s).scratch = s.scratch := rfl
@[simp] theorem State.latchError_draws (e : CoreError) : (State.latchError e s).draws = s.draws := rfl
@[simp] theorem State.latchError_hostIn (e : CoreError) : (State.latchError e s).hostIn = s.hostIn := rfl
@[simp] theorem State.latchError_hostOut (e : CoreError) : (State.latchError e s).hostOut = s.hostOut := rfl

@[simp] theorem State.setAcc_cfg (a : Acc) : (State.setAcc a s).cfg = s.cfg := rfl
@[simp] theorem State.setAcc_phase (a : Acc) : (State.setAcc a s).phase = s.phase := rfl
@[simp] theorem State.setAcc_err (a : Acc) : (State.setAcc a s).err = s.err := rfl
@[simp] theorem State.setAcc_errInfo (a : Acc) : (State.setAcc a s).errInfo = s.errInfo := rfl
@[simp] theorem State.setAcc_fftLen (a : Acc) : (State.setAcc a s).fftLen = s.fftLen := rfl
@[simp] theorem State.setAcc_sampleRate (a : Acc) : (State.setAcc a s).sampleRate = s.sampleRate := rfl
@[simp] theorem State.setAcc_channelCount (a : Acc) : (State.setAcc a s).channelCount = s.channelCount := rfl
@[simp] theorem State.setAcc_map (a : Acc) : (State.setAcc a s).map = s.map := rfl
@[simp] theorem State.setAcc_ir (a : Acc) : (State.setAcc a s).ir = s.ir := rfl
@[simp] theorem State.setAcc_available (a : Acc) : (State.setAcc a s).available = s.available := rfl
@[simp] theorem State.setAcc_win (a : Acc) : (State.setAcc a s).win = s.win := rfl
@[simp] theorem State.setAcc_acc (a : Acc) : (State.setAcc a s).acc = a := rfl
@[simp] theorem State.setAcc_scratch (a : Acc) : (State.setAcc a s).scratch = s.scratch := rfl
@[simp] theorem State.setAcc_draws (a : Acc) : (State.setAcc a s).draws = s.draws := rfl
@[simp] theorem State.setAcc_hostIn (a : Acc) : (State.setAcc a s).hostIn = s.hostIn := rfl
@[simp] theorem State.setAcc_hostOut (a : Acc) : (State.setAcc a s).hostOut = s.hostOut := rfl

@[simp] theorem State.loseAcc_cfg : (s.loseAcc).cfg = s.cfg := rfl
@[simp] theorem State.loseAcc_phase : (s.loseAcc).phase = s.phase := rfl
@[simp] theorem State.loseAcc_err : (s.loseAcc).err = s.err := rfl
@[simp] theorem State.loseAcc_errInfo : (s.loseAcc).errInfo = s.errInfo := rfl
@[simp] theorem State.loseAcc_fftLen : (s.loseAcc).fftLen = s.fftLen := rfl
@[simp] theorem State.loseAcc_sampleRate : (s.loseAcc).sampleRate = s.sampleRate := rfl
@[simp] theorem State.loseAcc_channelCount : (s.loseAcc).channelCount = s.channelCount := rfl
@[simp] theorem State.loseAcc_map : (s.loseAcc).map = s.map := rfl
@[simp] theorem State.loseAcc_ir : (s.loseAcc).ir = s.ir := rfl
@[simp] theorem State.loseAcc_available : (s.loseAcc).available = s.available := rfl
@[simp] theorem State.loseAcc_win : (s.loseAcc).win = s.win := rfl
@[simp] theorem State.loseAcc_acc : (s.loseAcc).acc = Acc.drawn s.cfg.blockSize s.draws := rfl
@[simp] theorem State.loseAcc_scratch : (s.loseAcc).scratch = s.scratch := rfl
@[simp] theorem State.loseAcc_draws : (s.loseAcc).draws = s.draws + 1 := rfl
@[simp] theorem State.loseAcc_hostIn : (s.loseAcc).hostIn = s.hostIn := rfl
@[simp] theorem State.loseAcc_hostOut : (s.loseAcc).hostOut = s.hostOut := rfl

@[simp] theorem State.loseScratch_cfg : (s.loseScratch).cfg = s.cfg := rfl
@[simp] theorem State.loseScratch_phase : (s.loseScratch).phase = s.phase := rfl
@[simp] theorem State.loseScratch_err : (s.loseScratch).err = s.err := rfl
@[simp] theorem State.loseScratch_errInfo : (s.loseScratch).errInfo = s.errInfo := rfl
@[simp] theorem State.loseScratch_fftLen : (s.loseScratch).fftLen = s.fftLen := rfl
@[simp] theorem State.loseScratch_sampleRate : (s.loseScratch).sampleRate = s.sampleRate := rfl
@[simp] theorem State.loseScratch_channelCount : (s.loseScratch).channelCount = s.channelCount := rfl
@[simp] theorem State.loseScratch_map : (s.loseScratch).map = s.map := rfl
@[simp] theorem State.loseScratch_ir : (s.loseScratch).ir = s.ir := rfl
@[simp] theorem State.loseScratch_available : (s.loseScratch).available = s.available := rfl
@[simp] theorem State.loseScratch_win : (s.loseScratch).win = s.win := rfl
@[simp] theorem State.loseScratch_acc : (s.loseScratch).acc = s.acc := rfl
@[simp] theorem State.loseScratch_scratch : (s.loseScratch).scratch = s.draws := rfl
@[simp] theorem State.loseScratch_draws : (s.loseScratch).draws = s.draws + 1 := rfl
@[simp] theorem State.loseScratch_hostIn : (s.loseScratch).hostIn = s.hostIn := rfl
@[simp] theorem State.loseScratch_hostOut : (s.loseScratch).hostOut = s.hostOut := rfl

@[simp] theorem State.clear_cfg : (s.clear).cfg = s.cfg := rfl
@[simp] theorem State.clear_phase : (s.clear).phase = .empty := rfl
@[simp] theorem State.clear_err : (s.clear).err = 0 := rfl
@[simp] theorem State.clear_errInfo : (s.clear).errInfo = 0 := rfl
@[simp] theorem State.clear_fftLen : (s.clear).fftLen = 0 := rfl
@[simp] theorem State.clear_sampleRate : (s.clear).sampleRate = 0 := rfl
@[simp] theorem State.clear_channelCount : (s.clear).channelCount = 0 := rfl
@[simp] theorem State.clear_map : (s.clear).map = [] := rfl
@[simp] theorem State.clear_ir : (s.clear).ir = [] := rfl
@[simp] theorem State.clear_available : (s.clear).available = 0 := rfl
@[simp] theorem State.clear_win : (s.clear).win = [] := rfl
@[simp] theorem State.clear_acc : (s.clear).acc = Acc.drawn s.cfg.blockSize s.draws := rfl
@[simp] theorem State.clear_scratch : (s.clear).scratch = s.draws := rfl
@[simp] theorem State.clear_draws : (s.clear).draws = s.draws + 1 := rfl
@[simp] theorem State.clear_hostIn : (s.clear).hostIn = s.hostIn := rfl
@[simp] theorem State.clear_hostOut : (s.clear).hostOut = s.hostOut := rfl

@[simp] theorem State.commit_cfg (b : Built) : (State.commit b s).cfg = s.cfg := rfl
@[simp] theorem State.commit_phase (b : Built) : (State.commit b s).phase = .ready := rfl
@[simp] theorem State.commit_err (b : Built) : (State.commit b s).err = s.err := rfl
@[simp] theorem State.commit_errInfo (b : Built) : (State.commit b s).errInfo = s.errInfo := rfl
@[simp] theorem State.commit_fftLen (b : Built) : (State.commit b s).fftLen = b.fftLen := rfl
@[simp] theorem State.commit_sampleRate (b : Built) : (State.commit b s).sampleRate = b.sampleRate := rfl
@[simp] theorem State.commit_channelCount (b : Built) : (State.commit b s).channelCount = b.map.length := rfl
@[simp] theorem State.commit_map (b : Built) : (State.commit b s).map = b.map := rfl
@[simp] theorem State.commit_ir (b : Built) : (State.commit b s).ir = b.ir := rfl
@[simp] theorem State.commit_available (b : Built) : (State.commit b s).available = 0 := rfl
@[simp] theorem State.commit_win (b : Built) : (State.commit b s).win = List.replicate b.map.length [] := rfl
@[simp] theorem State.commit_acc (b : Built) : (State.commit b s).acc = Acc.drawn s.cfg.blockSize s.draws := rfl
@[simp] theorem State.commit_scratch (b : Built) : (State.commit b s).scratch = s.draws := rfl
@[simp] theorem State.commit_draws (b : Built) : (State.commit b s).draws = s.draws + 1 := rfl
@[simp] theorem State.commit_hostIn (b : Built) : (State.commit b s).hostIn = s.hostIn := rfl
@[simp] theorem State.commit_hostOut (b : Built) : (State.commit b s).hostOut = s.hostOut := rfl

@[simp] theorem State.dropFront_cfg (d : Nat) : (State.dropFront d s).cfg = s.cfg := rfl
@[simp] theorem State.dropFront_phase (d : Nat) : (State.dropFront d s).phase = s.phase := rfl
@[simp] theorem State.dropFront_err (d : Nat) : (State.dropFront d s).err = s.err := rfl
@[simp] theorem State.dropFront_errInfo (d : Nat) : (State.dropFront d s).errInfo = s.errInfo := rfl
@[simp] theorem State.dropFront_fftLen (d : Nat) : (State.dropFront d s).fftLen = s.fftLen := rfl
@[simp] theorem State.dropFront_sampleRate (d : Nat) : (State.dropFront d s).sampleRate = s.sampleRate := rfl
@[simp] theorem State.dropFront_channelCount (d : Nat) : (State.dropFront d s).channelCount = s.channelCount := rfl
@[simp] theorem State.dropFront_map (d : Nat) : (State.dropFront d s).map = s.map := rfl
@[simp] theorem State.dropFront_ir (d : Nat) : (State.dropFront d s).ir = s.ir := rfl
@[simp] theorem State.dropFront_available (d : Nat) : (State.dropFront d s).available = s.available - d := rfl
@[simp] theorem State.dropFront_win (d : Nat) : (State.dropFront d s).win = s.win.map (List.drop d) := rfl
@[simp] theorem State.dropFront_acc (d : Nat) : (State.dropFront d s).acc = s.acc := rfl
@[simp] theorem State.dropFront_scratch (d : Nat) : (State.dropFront d s).scratch = s.scratch := rfl
@[simp] theorem State.dropFront_draws (d : Nat) : (State.dropFront d s).draws = s.draws := rfl
@[simp] theorem State.dropFront_hostIn (d : Nat) : (State.dropFront d s).hostIn = s.hostIn := rfl
@[simp] theorem State.dropFront_hostOut (d : Nat) : (State.dropFront d s).hostOut = s.hostOut := rfl

@[simp] theorem State.appendFrames_cfg (n : Nat) (d : List Word) : (State.appendFrames n d s).cfg = s.cfg := rfl
@[simp] theorem State.appendFrames_phase (n : Nat) (d : List Word) : (State.appendFrames n d s).phase = s.phase := rfl
@[simp] theorem State.appendFrames_err (n : Nat) (d : List Word) : (State.appendFrames n d s).err = s.err := rfl
@[simp] theorem State.appendFrames_errInfo (n : Nat) (d : List Word) : (State.appendFrames n d s).errInfo = s.errInfo := rfl
@[simp] theorem State.appendFrames_fftLen (n : Nat) (d : List Word) : (State.appendFrames n d s).fftLen = s.fftLen := rfl
@[simp] theorem State.appendFrames_sampleRate (n : Nat) (d : List Word) : (State.appendFrames n d s).sampleRate = s.sampleRate := rfl
@[simp] theorem State.appendFrames_channelCount (n : Nat) (d : List Word) : (State.appendFrames n d s).channelCount = s.channelCount := rfl
@[simp] theorem State.appendFrames_map (n : Nat) (d : List Word) : (State.appendFrames n d s).map = s.map := rfl
@[simp] theorem State.appendFrames_ir (n : Nat) (d : List Word) : (State.appendFrames n d s).ir = s.ir := rfl
@[simp] theorem State.appendFrames_available (n : Nat) (d : List Word) : (State.appendFrames n d s).available = s.available + n := rfl
@[simp] theorem State.appendFrames_win (n : Nat) (d : List Word) : (State.appendFrames n d s).win = s.win.mapIdx fun c row => row ++ (List.range n).map fun t => d.getD (t * s.channelCount + c) plusZero := rfl
@[simp] theorem State.appendFrames_acc (n : Nat) (d : List Word) : (State.appendFrames n d s).acc = s.acc := rfl
@[simp] theorem State.appendFrames_scratch (n : Nat) (d : List Word) : (State.appendFrames n d s).scratch = s.scratch := rfl
@[simp] theorem State.appendFrames_draws (n : Nat) (d : List Word) : (State.appendFrames n d s).draws = s.draws := rfl
@[simp] theorem State.appendFrames_hostIn (n : Nat) (d : List Word) : (State.appendFrames n d s).hostIn = s.hostIn := rfl
@[simp] theorem State.appendFrames_hostOut (n : Nat) (d : List Word) : (State.appendFrames n d s).hostOut = s.hostOut := rfl

@[simp] theorem State.takeEvent_cfg (rest : List HostEvent) : (State.takeEvent rest s).cfg = s.cfg := rfl
@[simp] theorem State.takeEvent_phase (rest : List HostEvent) : (State.takeEvent rest s).phase = s.phase := rfl
@[simp] theorem State.takeEvent_err (rest : List HostEvent) : (State.takeEvent rest s).err = s.err := rfl
@[simp] theorem State.takeEvent_errInfo (rest : List HostEvent) : (State.takeEvent rest s).errInfo = s.errInfo := rfl
@[simp] theorem State.takeEvent_fftLen (rest : List HostEvent) : (State.takeEvent rest s).fftLen = s.fftLen := rfl
@[simp] theorem State.takeEvent_sampleRate (rest : List HostEvent) : (State.takeEvent rest s).sampleRate = s.sampleRate := rfl
@[simp] theorem State.takeEvent_channelCount (rest : List HostEvent) : (State.takeEvent rest s).channelCount = s.channelCount := rfl
@[simp] theorem State.takeEvent_map (rest : List HostEvent) : (State.takeEvent rest s).map = s.map := rfl
@[simp] theorem State.takeEvent_ir (rest : List HostEvent) : (State.takeEvent rest s).ir = s.ir := rfl
@[simp] theorem State.takeEvent_available (rest : List HostEvent) : (State.takeEvent rest s).available = s.available := rfl
@[simp] theorem State.takeEvent_win (rest : List HostEvent) : (State.takeEvent rest s).win = s.win := rfl
@[simp] theorem State.takeEvent_acc (rest : List HostEvent) : (State.takeEvent rest s).acc = s.acc := rfl
@[simp] theorem State.takeEvent_scratch (rest : List HostEvent) : (State.takeEvent rest s).scratch = s.scratch := rfl
@[simp] theorem State.takeEvent_draws (rest : List HostEvent) : (State.takeEvent rest s).draws = s.draws := rfl
@[simp] theorem State.takeEvent_hostIn (rest : List HostEvent) : (State.takeEvent rest s).hostIn = rest := rfl
@[simp] theorem State.takeEvent_hostOut (rest : List HostEvent) : (State.takeEvent rest s).hostOut = s.hostOut := rfl

@[simp] theorem State.loseScratchIfUsed_cfg : s.loseScratchIfUsed.cfg = s.cfg := by
  unfold State.loseScratchIfUsed; split <;> rfl
@[simp] theorem State.loseScratchIfUsed_phase : s.loseScratchIfUsed.phase = s.phase := by
  unfold State.loseScratchIfUsed; split <;> rfl
@[simp] theorem State.loseScratchIfUsed_err : s.loseScratchIfUsed.err = s.err := by
  unfold State.loseScratchIfUsed; split <;> rfl
@[simp] theorem State.loseScratchIfUsed_errInfo : s.loseScratchIfUsed.errInfo = s.errInfo := by
  unfold State.loseScratchIfUsed; split <;> rfl
@[simp] theorem State.loseScratchIfUsed_fftLen : s.loseScratchIfUsed.fftLen = s.fftLen := by
  unfold State.loseScratchIfUsed; split <;> rfl
@[simp] theorem State.loseScratchIfUsed_sampleRate : s.loseScratchIfUsed.sampleRate = s.sampleRate := by
  unfold State.loseScratchIfUsed; split <;> rfl
@[simp] theorem State.loseScratchIfUsed_channelCount : s.loseScratchIfUsed.channelCount = s.channelCount := by
  unfold State.loseScratchIfUsed; split <;> rfl
@[simp] theorem State.loseScratchIfUsed_map : s.loseScratchIfUsed.map = s.map := by
  unfold State.loseScratchIfUsed; split <;> rfl
@[simp] theorem State.loseScratchIfUsed_ir : s.loseScratchIfUsed.ir = s.ir := by
  unfold State.loseScratchIfUsed; split <;> rfl
@[simp] theorem State.loseScratchIfUsed_available : s.loseScratchIfUsed.available = s.available := by
  unfold State.loseScratchIfUsed; split <;> rfl
@[simp] theorem State.loseScratchIfUsed_win : s.loseScratchIfUsed.win = s.win := by
  unfold State.loseScratchIfUsed; split <;> rfl
@[simp] theorem State.loseScratchIfUsed_acc : s.loseScratchIfUsed.acc = s.acc := by
  unfold State.loseScratchIfUsed; split <;> rfl
@[simp] theorem State.loseScratchIfUsed_hostIn : s.loseScratchIfUsed.hostIn = s.hostIn := by
  unfold State.loseScratchIfUsed; split <;> rfl
@[simp] theorem State.loseScratchIfUsed_hostOut : s.loseScratchIfUsed.hostOut = s.hostOut := by
  unfold State.loseScratchIfUsed; split <;> rfl

@[simp] theorem Acc.drawn_left_length (b d : Nat) : (Acc.drawn b d).left.length = b := by simp [Acc.drawn]
@[simp] theorem Acc.drawn_right_length (b d : Nat) : (Acc.drawn b d).right.length = b := by simp [Acc.drawn]
@[simp] theorem zeros_length (n : Nat) : (zeros n).length = n := by simp [zeros]
@[simp] theorem Acc.zeroed_left (b : Nat) : (Acc.zeroed b).left = zeros b := rfl
@[simp] theorem Acc.zeroed_right (b : Nat) : (Acc.zeroed b).right = zeros b := rfl

end Sys2Proof.Machine
end

