-- ==== Sys2Proof/Laws/Ops.lean ====
section
/-! SUPPORT. What each shared operation can do, once: the reads of buffers, the two ways to answer the host, the check of a
condition, the backend's lengths. -/

namespace Sys2Proof.Machine

theorem memRead_of_le {α : Type} {buf : List α} {i n : Nat} (h : i + n ≤ buf.length) :
    memRead buf i n = some ((buf.drop i).take n) := by simp [memRead, h]

theorem memRead_eq_some {α : Type} {buf r : List α} {i n : Nat} :
    memRead buf i n = some r ↔ i + n ≤ buf.length ∧ r = (buf.drop i).take n := by
  unfold memRead
  split <;> simp_all [eq_comm]

/-- A whole buffer is read as it is. -/
@[simp] theorem memRead_zero_length {α : Type} (buf : List α) : memRead buf 0 buf.length = some buf := by
  simp [memRead]

theorem memRead_length {α : Type} {buf r : List α} {i n : Nat} (h : memRead buf i n = some r) : r.length = n := by
  obtain ⟨h1, rfl⟩ := memRead_eq_some.1 h
  simp; omega

theorem memRead2_eq_some {α : Type} {buf : List (List α)} {r : List α} {row i n : Nat} :
    memRead2 buf row i n = some r ↔ ∃ x, buf[row]? = some x ∧ memRead x i n = some r := by
  unfold memRead2
  split <;> simp_all

theorem respond_eq (payload : List Word) (s : State) :
    respond payload s = .next { s with hostOut := s.hostOut ++ [okResponse payload] } := rfl

theorem raiseError_eq (e : CoreError) (s : State) :
    raiseError e s = .next
      { s with err := errorCode e, errInfo := errorInfo e, hostOut := s.hostOut ++ [errorResponse e] } := rfl

@[simp] theorem respond_next {payload : List Word} {s t : State} :
    respond payload s = .next t ↔ t = { s with hostOut := s.hostOut ++ [okResponse payload] } := by
  simp [respond, eq_comm]

@[simp] theorem raiseError_next {e : CoreError} {s t : State} :
    raiseError e s = .next t ↔
      t = { s with err := errorCode e, errInfo := errorInfo e, hostOut := s.hostOut ++ [errorResponse e] } := by
  simp [raiseError, State.latchError, eq_comm]

@[simp] theorem require_true (e : CoreError) (s : State) (k : Result) : require true e s k = k := rfl

@[simp] theorem require_false (e : CoreError) (s : State) (k : Result) : require false e s k = raiseError e s := rfl

/-- A checked rule answers a next state in one of two ways: the check fails and the error is taken, or it holds and
the rest of the rule answers. -/
theorem require_next {c : Bool} {e : CoreError} {s t : State} {k : Result} (h : require c e s k = .next t) :
    (c = false ∧ raiseError e s = .next t) ∨ (c = true ∧ k = .next t) := by
  cases c
  · exact .inl ⟨rfl, h⟩
  · exact .inr ⟨rfl, h⟩

/-- No status code of an error is `OK` (R82). -/
theorem errorCode_ne_zero (e : CoreError) : errorCode e ≠ 0 := by cases e <;> simp [errorCode]

@[simp] theorem extract_high (c : BitVec 8) (i : BitVec 24) : (c ++ i).extractLsb' 24 8 = c := by
  apply BitVec.eq_of_getLsbD_eq
  intro k hk
  rw [BitVec.getLsbD_extractLsb', BitVec.getLsbD_append]
  simp [hk]

@[simp] theorem extract_low (c : BitVec 8) (i : BitVec 24) : (c ++ i).extractLsb' 0 24 = i := by
  apply BitVec.eq_of_getLsbD_eq
  intro k hk
  rw [BitVec.getLsbD_extractLsb', BitVec.getLsbD_append]
  simp [hk]

@[simp] theorem statusWord_code (c : BitVec 8) (i : BitVec 24) : (statusWord c i).extractLsb' 24 8 = c :=
  extract_high c i

@[simp] theorem statusWord_info (c : BitVec 8) (i : BitVec 24) : (statusWord c i).extractLsb' 0 24 = i :=
  extract_low c i

@[simp] theorem okResponse_code (p : List Word) : (okResponse p).code = 0 := by
  simp [okResponse, Response.code]

@[simp] theorem okResponse_payload (p : List Word) : (okResponse p).payload = p := rfl

@[simp] theorem okResponse_info (p : List Word) : (okResponse p).info = BitVec.ofNat 24 p.length := by
  simp [okResponse, Response.info]

@[simp] theorem errorResponse_code (e : CoreError) : (errorResponse e).code = errorCode e := by
  simp [errorResponse, Response.code]

@[simp] theorem errorResponse_payload (e : CoreError) : (errorResponse e).payload = [] := rfl

@[simp] theorem errorResponse_info (e : CoreError) : (errorResponse e).info = (errorInfo e).setWidth 24 := by
  simp [errorResponse, Response.info]

/-- A forward transform has `N/2 + 1` bins (R110). -/
theorem bkFwd_length {c : Config} {n : Nat} {x : List F32} {y : List C32} (h : bkFwd c n x = some y) :
    y.length = n / 2 + 1 := by
  unfold bkFwd at h
  split at h
  · split at h <;> simp at h
    subst h; simp
  · split at h <;> simp at h
    subst h; rfl
  · split at h
    · split at h <;> simp at h
      subst h; rfl
    · simp at h

/-- An inverse transform has `N` samples (R110). -/
theorem bkInv_length {c : Config} {n : Nat} {x : List C32} {y : List F32} (h : bkInv c n x = some y) :
    y.length = n := by
  unfold bkInv at h
  split at h
  · split at h <;> simp at h
    subst h; simp
  all_goals
    split at h <;> simp at h
    subst h; rfl

end Sys2Proof.Machine
end

