-- ==== Sys2Proof/Laws/Backend.lean ====
section
/-! SUPPORT. The concrete test backend has the named properties of 40_numerics R111: `BK-TOTAL` and `BK-ZERO` at `N = 4`. -/

namespace Sys2Proof.Machine

theorem isZero_iff {x : F32} : isZero x = true ↔ x = plusZero ∨ x = minusZero := by
  have := x.isLt
  simp only [isZero, magBits, ← BitVec.toNat_inj, plusZero, minusZero]
  norm_num [BitVec.toNat_ofNat]
  omega

theorem fadd_zero {x y : F32} (hx : isZero x = true) (hy : isZero y = true) : isZero (fadd x y) = true := by
  rcases isZero_iff.1 hx with rfl | rfl <;> rcases isZero_iff.1 hy with rfl | rfl <;> decide +kernel

theorem fsub_zero {x y : F32} (hx : isZero x = true) (hy : isZero y = true) : isZero (fsub x y) = true := by
  rcases isZero_iff.1 hx with rfl | rfl <;> rcases isZero_iff.1 hy with rfl | rfl <;> decide +kernel

theorem fneg_zero {x : F32} (hx : isZero x = true) : isZero (fneg x) = true := by
  rcases isZero_iff.1 hx with rfl | rfl <;> decide +kernel

theorem fmul_two_zero {x : F32} (hx : isZero x = true) : isZero (fmul plusTwo x) = true := by
  rcases isZero_iff.1 hx with rfl | rfl <;> decide +kernel

variable {c : Config}

/-- The test backend is total at length 4 (R113). -/
theorem ref4_total (hc : c.backend = .ref4) : BkTotal c 4 := by
  constructor
  · intro x hx
    obtain ⟨a, b, d, e, rfl⟩ : ∃ a b d e, x = [a, b, d, e] := by
      match x, hx with
      | [a, b, d, e], _ => exact ⟨a, b, d, e, rfl⟩
    simp [bkFwd, hc]
  · intro x hx
    obtain ⟨a, b, d, rfl⟩ : ∃ a b d, x = [a, b, d] := by
      match x, hx with
      | [a, b, d], _ => exact ⟨a, b, d, rfl⟩
    simp [bkInv, hc]

/-- The test backend maps zeros to zeros (R111, R113). -/
theorem ref4_zero (hc : c.backend = .ref4) : BkZero c 4 := by
  constructor
  · intro x _ hx y hy
    simp only [bkFwd, hc] at hy
    split at hy <;> simp only [Option.some.injEq, reduceCtorEq] at hy
    subst hy
    simp only [List.mem_cons, List.not_mem_nil, or_false, forall_eq_or_imp, forall_eq] at hx
    obtain ⟨h0, h1, h2, h3⟩ := hx
    simp only [zeroSpectrum, ref4Fwd, List.mem_cons, List.not_mem_nil, or_false, forall_eq_or_imp, forall_eq]
    have hz : isZero plusZero = true := by decide
    exact ⟨⟨fadd_zero (fadd_zero h0 h2) (fadd_zero h1 h3), hz⟩, ⟨fsub_zero h0 h2, fneg_zero (fsub_zero h1 h3)⟩,
      fsub_zero (fadd_zero h0 h2) (fadd_zero h1 h3), hz⟩
  · intro x _ hx y hy
    simp only [bkInv, hc] at hy
    split at hy <;> simp only [Option.some.injEq, reduceCtorEq] at hy
    subst hy
    simp only [zeroSpectrum, List.mem_cons, List.not_mem_nil, or_false, forall_eq_or_imp, forall_eq] at hx
    obtain ⟨⟨h0, -⟩, ⟨h1, h1'⟩, h2, -⟩ := hx
    simp only [ref4Inv, List.mem_cons, List.not_mem_nil, or_false, forall_eq_or_imp, forall_eq]
    exact ⟨fadd_zero (fadd_zero h0 h2) (fmul_two_zero h1), fsub_zero (fsub_zero h0 h2) (fmul_two_zero h1'),
      fsub_zero (fadd_zero h0 h2) (fmul_two_zero h1), fadd_zero (fsub_zero h0 h2) (fmul_two_zero h1')⟩

end Sys2Proof.Machine
end

