-- ==== Sys2Proof/Laws/Engine.lean ====
section
/-! SUPPORT. What the Convolution Engine can do: when an ear, a channel and a sequence of channels end well, with what lengths,
and what of the state they read. -/

namespace Sys2Proof.Machine

/-- The stops that come from the backend at run time (R181). -/
def EngineStop.isBackend : EngineStop → Bool
  | .backend .runForward | .backend .runInverse => true
  | _ => false

/-- An accumulator of `b` samples an ear. -/
abbrev Acc.Fits (a : Acc) (b : Nat) : Prop := a.left.length = b ∧ a.right.length = b

theorem processEar_eq_ok {s : State} {slot : Nat} {spec : List C32} {old r : List F32}
    (h : processEar s slot spec old = .ok r) :
    ∃ ir y, s.ir[slot]? = some ir ∧ s.fftLen / 2 + 1 ≤ ir.length ∧
      bkInv s.cfg s.fftLen (List.zipWith cmul spec (ir.take (s.fftLen / 2 + 1))) = some y ∧
      s.fftLen - s.cfg.blockSize + s.cfg.blockSize ≤ y.length ∧ s.cfg.blockSize ≤ old.length ∧
      r = List.zipWith (fun a y => fadd a (fmul y (invN s.fftLen))) (old.take s.cfg.blockSize)
        ((y.drop (s.fftLen - s.cfg.blockSize)).take s.cfg.blockSize) := by
  unfold processEar at h
  split at h
  · simp at h
  rename_i ir hir
  obtain ⟨row, hrow, hr⟩ := memRead2_eq_some.1 hir
  obtain ⟨hle, rfl⟩ := memRead_eq_some.1 hr
  split at h
  · simp at h
  rename_i y hy
  split at h
  · simp at h
  rename_i block hb
  obtain ⟨hb1, rfl⟩ := memRead_eq_some.1 hb
  split at h
  · simp at h
  rename_i acc ha
  obtain ⟨ha1, rfl⟩ := memRead_eq_some.1 ha
  simp only [Except.ok.injEq] at h
  exact ⟨row, y, hrow, by omega, by simpa using hy, hb1, by omega, by simpa using h.symm⟩

theorem processEar_length {s : State} {slot : Nat} {spec : List C32} {old r : List F32}
    (h : processEar s slot spec old = .ok r) : r.length = s.cfg.blockSize := by
  obtain ⟨ir, y, -, -, -, hy, ho, rfl⟩ := processEar_eq_ok h
  simp; omega

/-- With its slot present and full, an ear ends as the inverse transform does. -/
theorem processEar_of_slot {s : State} {slot : Nat} {spec ir : List C32} {old : List F32}
    (hB : s.cfg.blockSize ≤ s.fftLen) (hslot : s.ir[slot]? = some ir) (hlen : ir.length = s.fftLen / 2 + 1)
    (hold : old.length = s.cfg.blockSize) :
    processEar s slot spec old =
      match bkInv s.cfg s.fftLen (List.zipWith cmul spec ir) with
      | none => .error (.backend .runInverse)
      | some y => .ok (List.zipWith (fun a y => fadd a (fmul y (invN s.fftLen))) old
          (y.drop (s.fftLen - s.cfg.blockSize))) := by
  unfold processEar
  rw [memRead2_eq_some.2 ⟨ir, hslot, by rw [← hlen]; exact memRead_zero_length ir⟩]
  simp only
  cases hy : bkInv s.cfg s.fftLen (List.zipWith cmul spec ir) with
  | none => rfl
  | some y =>
    have hyl := bkInv_length hy
    simp only
    rw [memRead_of_le (by omega), memRead_of_le (by omega)]
    simp only [List.drop_zero]
    rw [List.take_of_length_le (by omega), List.take_of_length_le (by simp; omega)]

theorem processChannel_fits {s : State} {ch : Nat} {w : List F32} {acc r : Acc}
    (h : processChannel s ch w acc = .ok r) : r.Fits s.cfg.blockSize := by
  unfold processChannel at h
  split at h
  · simp at h
  split at h
  · simp at h
  rename_i left hl
  split at h
  · simp at h
  rename_i right hr
  simp only [Except.ok.injEq] at h
  subst h
  exact ⟨processEar_length hl, processEar_length hr⟩

/-- Under the invariant a channel below `C` ends well or with a backend failure. -/
theorem processChannel_cases {s : State} {ch : Nat} {w : List F32} {acc : Acc}
    (hm : Memory.wf s) (hB : s.cfg.blockSize ≤ s.fftLen) (hch : ch < s.channelCount) (ha : acc.Fits s.cfg.blockSize) :
    (∃ r, processChannel s ch w acc = .ok r) ∨
      ∃ e, processChannel s ch w acc = .error e ∧ e.isBackend = true := by
  obtain ⟨-, -, -, hir, hslot, -⟩ := hm
  have hl : ch * 2 < s.ir.length := by omega
  have hr : ch * 2 + 1 < s.ir.length := by omega
  unfold processChannel
  cases hf : bkFwd s.cfg s.fftLen w with
  | none => exact .inr ⟨_, rfl, rfl⟩
  | some spec =>
    simp only
    rw [processEar_of_slot hB (List.getElem?_eq_getElem hl) (hslot _ (List.getElem_mem hl)) ha.1,
      processEar_of_slot hB (List.getElem?_eq_getElem hr) (hslot _ (List.getElem_mem hr)) ha.2]
    cases bkInv s.cfg s.fftLen (List.zipWith cmul spec s.ir[ch * 2]) with
    | none => exact .inr ⟨_, rfl, rfl⟩
    | some yl =>
      cases bkInv s.cfg s.fftLen (List.zipWith cmul spec s.ir[ch * 2 + 1]) with
      | none => exact .inr ⟨_, rfl, rfl⟩
      | some yr => exact .inl ⟨_, rfl⟩

/-- The windows of channels `ch` on: all of them end well, or a backend failure ends the loop. -/
theorem processChannels_cases {s : State} (hm : Memory.wf s) (hB : s.cfg.blockSize ≤ s.fftLen) :
    ∀ (ws : List (List F32)) (ch : Nat) (acc : Acc), ch + ws.length ≤ s.channelCount → acc.Fits s.cfg.blockSize →
      (∃ r, processChannels s ch ws acc = .ok r ∧ r.Fits s.cfg.blockSize) ∨
        ∃ e, processChannels s ch ws acc = .error e ∧ e.isBackend = true
  | [], _, acc, _, ha => .inl ⟨acc, rfl, ha⟩
  | w :: ws, ch, acc, hch, ha => by
    simp only [List.length_cons] at hch
    unfold processChannels
    obtain ⟨r, hr⟩ | ⟨e, he, hb⟩ := processChannel_cases (w := w) hm hB (show ch < s.channelCount by omega) ha
    · rw [hr]
      exact processChannels_cases hm hB ws (ch + 1) r (by omega) (processChannel_fits hr)
    · rw [he]
      exact .inr ⟨e, rfl, hb⟩

theorem processChannels_fits {s : State} : ∀ {ws : List (List F32)} {ch : Nat} {acc r : Acc},
    processChannels s ch ws acc = .ok r → acc.Fits s.cfg.blockSize → r.Fits s.cfg.blockSize
  | [], _, _, _, h, ha => by simp only [processChannels, Except.ok.injEq] at h; exact h ▸ ha
  | w :: ws, ch, acc, r, h, _ => by
    unfold processChannels at h
    split at h
    · simp at h
    rename_i acc' hc
    exact processChannels_fits h (processChannel_fits hc)

/-- A backend failure ends the channel with its stage, whatever the accumulators hold (R180, R181). -/
theorem processChannel_of_fails {s : State} {ch : Nat} {w : List F32} {acc : Acc} {stage : Word} (hm : Memory.wf s)
    (hB : s.cfg.blockSize ≤ s.fftLen) (ha : acc.Fits s.cfg.blockSize) (h : ChannelFails s ch w stage) :
    ∃ st, processChannel s ch w acc = .error (.backend st) ∧ BitVec.ofNat 32 (stageNumber st) = stage := by
  obtain ⟨-, -, -, -, hslot, -⟩ := hm
  obtain ⟨hf, rfl⟩ | ⟨spec, left, right, hf, hl, hr, hi, rfl⟩ := h
  · exact ⟨.runForward, by simp [processChannel, hf], rfl⟩
  · refine ⟨.runInverse, ?_, rfl⟩
    rw [processChannel, hf, Nat.mul_comm ch 2]
    simp only
    rw [processEar_of_slot hB hl (hslot _ (List.mem_of_getElem? hl)) ha.1,
      processEar_of_slot hB hr (hslot _ (List.mem_of_getElem? hr)) ha.2]
    rcases hi with h | h
    · rw [h]
    · rw [h]
      cases bkInv s.cfg s.fftLen (List.zipWith cmul spec left) <;> rfl

/-- A channel below `C` that meets no backend failure ends well. -/
theorem processChannel_of_not_fails {s : State} {ch : Nat} {w : List F32} {acc : Acc} (hm : Memory.wf s)
    (hB : s.cfg.blockSize ≤ s.fftLen) (hch : ch < s.channelCount) (ha : acc.Fits s.cfg.blockSize)
    (h : ∀ stage, ¬ChannelFails s ch w stage) : ∃ r, processChannel s ch w acc = .ok r := by
  obtain ⟨-, -, -, hir, hslot, -⟩ := hm
  have hl := List.getElem?_eq_getElem (show 2 * ch < s.ir.length by omega)
  have hr := List.getElem?_eq_getElem (show 2 * ch + 1 < s.ir.length by omega)
  unfold processChannel
  cases hf : bkFwd s.cfg s.fftLen w with
  | none => exact absurd (.inl ⟨hf, rfl⟩) (h 2)
  | some spec =>
    simp only
    rw [Nat.mul_comm ch 2, processEar_of_slot hB hl (hslot _ (List.mem_of_getElem? hl)) ha.1,
      processEar_of_slot hB hr (hslot _ (List.mem_of_getElem? hr)) ha.2]
    cases hyl : bkInv s.cfg s.fftLen (List.zipWith cmul spec s.ir[2 * ch]) with
    | none => exact absurd (.inr ⟨_, _, _, hf, hl, hr, .inl hyl, rfl⟩) (h 3)
    | some yl =>
      cases hyr : bkInv s.cfg s.fftLen (List.zipWith cmul spec s.ir[2 * ch + 1]) with
      | none => exact absurd (.inr ⟨_, _, _, hf, hl, hr, .inr hyr, rfl⟩) (h 3)
      | some yr => exact ⟨_, rfl⟩

/-- The first channel of a sequence from `k` on that meets a backend failure ends the sequence with its stage. -/
theorem processChannels_of_fails {s : State} (hm : Memory.wf s) (hB : s.cfg.blockSize ≤ s.fftLen) {stage : Word} :
    ∀ (ws : List (List F32)) (k c : Nat) (acc : Acc), k + ws.length ≤ s.channelCount → acc.Fits s.cfg.blockSize →
      (∃ w, ws[c]? = some w ∧ ChannelFails s (k + c) w stage) →
      (∀ j v i, j < c → ws[j]? = some v → ¬ChannelFails s (k + j) v i) →
      ∃ st, processChannels s k ws acc = .error (.backend st) ∧ BitVec.ofNat 32 (stageNumber st) = stage
  | [], _, _, _, _, _, ⟨_, h, _⟩, _ => by simp at h
  | w :: ws, k, 0, acc, _, ha, ⟨v, h, hf⟩, _ => by
    simp only [List.getElem?_cons_zero, Option.some.injEq] at h
    subst h
    obtain ⟨st, h1, h2⟩ := processChannel_of_fails hm hB ha hf
    exact ⟨st, by rw [processChannels, show processChannel s k w acc = _ from h1], h2⟩
  | w :: ws, k, c + 1, acc, hk, ha, ⟨v, h, hf⟩, hn => by
    simp only [List.length_cons] at hk
    obtain ⟨r, h1⟩ := processChannel_of_not_fails hm hB (show k < s.channelCount by omega) ha
      fun i => hn 0 w i (by omega) (by simp)
    obtain ⟨st, h2, h3⟩ := processChannels_of_fails hm hB ws (k + 1) c r (by omega) (processChannel_fits h1)
      ⟨v, by simpa using h, by rwa [show k + 1 + c = k + (c + 1) by omega]⟩
      fun j v i hj hv => by
        rw [show k + 1 + j = k + (j + 1) by omega]
        exact hn (j + 1) v i (by omega) (by simpa using hv)
    exact ⟨st, by rw [processChannels, h1]; exact h2, h3⟩

/-- The engine reads of the state only the parameters, `N` and `IR`. -/
theorem processChannel_congr {s u : State} (hc : s.cfg = u.cfg) (hn : s.fftLen = u.fftLen) (hi : s.ir = u.ir)
    (ch : Nat) (w : List F32) (acc : Acc) : processChannel s ch w acc = processChannel u ch w acc := by
  simp only [processChannel, processEar, hc, hn, hi]

theorem processChannels_congr {s u : State} (hc : s.cfg = u.cfg) (hn : s.fftLen = u.fftLen) (hi : s.ir = u.ir) :
    ∀ (ws : List (List F32)) (ch : Nat) (acc : Acc), processChannels s ch ws acc = processChannels u ch ws acc
  | [], _, _ => rfl
  | w :: ws, ch, acc => by
    simp only [processChannels, processChannel_congr hc hn hi]
    split
    · rfl
    · exact processChannels_congr hc hn hi ws _ _

/-- With a backend that does not fail, a channel below `C` ends well. -/
theorem processChannel_of_total {s : State} {ch : Nat} {w : List F32} {acc : Acc} (hm : Memory.wf s)
    (hB : s.cfg.blockSize ≤ s.fftLen) (ht : BkTotal s.cfg s.fftLen) (hch : ch < s.channelCount)
    (hw : w.length = s.fftLen) (ha : acc.Fits s.cfg.blockSize) : ∃ r, processChannel s ch w acc = .ok r := by
  obtain ⟨-, -, -, hir, hslot, -⟩ := hm
  have hl : ch * 2 < s.ir.length := by omega
  have hr : ch * 2 + 1 < s.ir.length := by omega
  have hll := hslot _ (List.getElem_mem hl)
  have hrl := hslot _ (List.getElem_mem hr)
  unfold processChannel
  cases hf : bkFwd s.cfg s.fftLen w with
  | none => exact absurd hf (ht.1 w hw)
  | some spec =>
    have hs := bkFwd_length hf
    simp only
    rw [processEar_of_slot hB (List.getElem?_eq_getElem hl) hll ha.1,
      processEar_of_slot hB (List.getElem?_eq_getElem hr) hrl ha.2]
    cases hyl : bkInv s.cfg s.fftLen (List.zipWith cmul spec s.ir[ch * 2]) with
    | none => exact absurd hyl (ht.2 _ (by simp; omega))
    | some yl =>
      cases hyr : bkInv s.cfg s.fftLen (List.zipWith cmul spec s.ir[ch * 2 + 1]) with
      | none => exact absurd hyr (ht.2 _ (by simp; omega))
      | some yr => exact ⟨_, rfl⟩

theorem processChannels_of_total {s : State} (hm : Memory.wf s) (hB : s.cfg.blockSize ≤ s.fftLen)
    (ht : BkTotal s.cfg s.fftLen) :
    ∀ (ws : List (List F32)) (ch : Nat) (acc : Acc), ch + ws.length ≤ s.channelCount →
      (∀ w ∈ ws, w.length = s.fftLen) → acc.Fits s.cfg.blockSize → ∃ r, processChannels s ch ws acc = .ok r
  | [], _, acc, _, _, _ => ⟨acc, rfl⟩
  | w :: ws, ch, acc, hch, hw, ha => by
    simp only [List.length_cons] at hch
    obtain ⟨r, hr⟩ := processChannel_of_total hm hB ht (show ch < s.channelCount by omega) (hw w (by simp)) ha
    unfold processChannels
    rw [hr]
    exact processChannels_of_total hm hB ht ws (ch + 1) r (by omega) (fun v hv => hw v (by simp [hv]))
      (processChannel_fits hr)

end Sys2Proof.Machine
end

