-- ==== Sys2Proof/Laws/Buffers.lean ====
section
/-! SUPPORT. Every operation that writes a buffer keeps the form of the memory (`Memory.wf`), and what the streaming buffer
operations leave in the windows. -/

namespace Sys2Proof.Machine

theorem nextPow2_isPow (m : Nat) : ∃ e, nextPow2 m = 2 ^ e := by
  unfold nextPow2
  split
  · exact ⟨0, rfl⟩
  · exact ⟨_, rfl⟩

theorem le_nextPow2 (m : Nat) : m ≤ nextPow2 m := by
  unfold nextPow2
  split
  · assumption
  · have := Nat.lt_log2_self (n := m - 1)
    omega

/-- The memory of the machine after hardware reset has the form, whatever the parameters. -/
theorem powerOn_wf (c : Config) : Memory.wf (State.powerOn c) := by
  simp [Memory.wf, State.powerOn]

theorem reset_wf : Memory.wf State.reset := powerOn_wf _

theorem clear_wf (s : State) : Memory.wf s.clear := by simp [Memory.wf]

theorem loseAcc_wf {s : State} (h : Memory.wf s) : Memory.wf s.loseAcc := by
  obtain ⟨h1, h2, h3⟩ := h
  exact ⟨by simp, by simp, h3⟩

theorem loseScratch_wf {s : State} (h : Memory.wf s) : Memory.wf s.loseScratch := h

theorem loseScratchIfUsed_wf {s : State} (h : Memory.wf s) : Memory.wf s.loseScratchIfUsed := by
  unfold State.loseScratchIfUsed
  split
  · exact h
  · exact h

theorem setAcc_wf {s : State} {a : Acc} (h : Memory.wf s) (ha : a.Fits s.cfg.blockSize) :
    Memory.wf (s.setAcc a) := ⟨ha.1, ha.2, h.2.2⟩

theorem latchError_wf {s : State} (e : CoreError) (h : Memory.wf s) : Memory.wf (s.latchError e) := h

theorem takeEvent_wf {s : State} (rest : List HostEvent) (h : Memory.wf s) : Memory.wf (s.takeEvent rest) := h

theorem dropFront_wf {s : State} {d : Nat} (h : Memory.wf s) : Memory.wf (s.dropFront d) := by
  obtain ⟨h1, h2, h3, h4, h5, h6, h7, h8⟩ := h
  refine ⟨h1, h2, h3, h4, h5, ?_, by simpa using h7, ?_⟩
  · simp; omega
  · intro w hw
    simp only [State.dropFront_win, List.mem_map] at hw
    obtain ⟨v, hv, rfl⟩ := hw
    simp [h8 v hv]

theorem appendFrames_wf {s : State} {n : Nat} {d : List Word} (h : Memory.wf s) (hn : s.available + n ≤ s.fftLen) :
    Memory.wf (s.appendFrames n d) := by
  obtain ⟨h1, h2, h3, h4, h5, h6, h7, h8⟩ := h
  refine ⟨h1, h2, h3, h4, h5, hn, by simpa using h7, ?_⟩
  intro w hw
  simp only [State.appendFrames_win, List.mem_mapIdx] at hw
  obtain ⟨c, hc, rfl⟩ := hw
  simp [h8 _ (List.getElem_mem hc)]

@[simp] theorem makeRoom_cfg (n : Nat) (s : State) : (makeRoom n s).cfg = s.cfg := by unfold makeRoom; split <;> rfl
@[simp] theorem makeRoom_phase (n : Nat) (s : State) : (makeRoom n s).phase = s.phase := by
  unfold makeRoom; split <;> rfl
@[simp] theorem makeRoom_fftLen (n : Nat) (s : State) : (makeRoom n s).fftLen = s.fftLen := by
  unfold makeRoom; split <;> rfl
@[simp] theorem makeRoom_channelCount (n : Nat) (s : State) : (makeRoom n s).channelCount = s.channelCount := by
  unfold makeRoom; split <;> rfl

theorem makeRoom_available (n : Nat) (s : State) (hn : n ≤ s.fftLen) :
    (makeRoom n s).available = min s.available (s.fftLen - n) := by
  unfold makeRoom
  split
  · simp; omega
  · simp; omega

/-- Making room and appending a chunk keeps the form (R217, R216, R34 c). -/
theorem absorb_wf {s : State} {n : Nat} {d : List Word} (h : Memory.wf s) (hn : n ≤ s.fftLen) :
    Memory.wf (absorb n d s) := by
  have ha := makeRoom_available n s hn
  refine appendFrames_wf ?_ (by simp only [ha, makeRoom_fftLen]; omega)
  unfold makeRoom
  split
  · exact dropFront_wf h
  · exact h

/-- What a chunk leaves in the state: the windows of R216 and R217, the cursor, and nothing else. -/
theorem absorb_eq {s : State} {n : Nat} {d : List Word} (h : Memory.wf s) (hn : n ≤ s.fftLen) :
    absorb n d s = { s with win := windowsAfter s n d, available := min (s.available + n) s.fftLen } := by
  obtain ⟨-, -, -, -, -, h6, h7, h8⟩ := h
  unfold absorb makeRoom
  split
  · rename_i hlt
    simp only [State.appendFrames, State.dropFront, windowsAfter, channelSamples]
    congr 1
    · omega
    · apply List.ext_getElem
      · simp
      · intro c h1 h2
        simp only [List.length_mapIdx, List.length_map] at h1
        simp only [List.getElem_mapIdx, List.getElem_map]
        rw [List.drop_append_of_le_length]
        have := h8 _ (List.getElem_mem h1)
        omega
  · rename_i hlt
    simp only [State.appendFrames, windowsAfter, channelSamples]
    congr 1
    · omega
    · rw [show s.available + n - s.fftLen = 0 by omega]
      rfl

/-- The windows from channel `c` on are read as they are when they are full. -/
theorem readWindows_full {s : State} (hlen : ∀ w ∈ s.win, w.length = s.fftLen) :
    ∀ (k c : Nat), c + k = s.win.length → readWindows s k c = some (s.win.drop c)
  | 0, c, h => by
    rw [List.drop_of_length_le (by omega)]; rfl
  | k + 1, c, h => by
    have hc : c < s.win.length := by omega
    unfold readWindows
    rw [memRead2_eq_some.2 ⟨s.win[c], List.getElem?_eq_getElem hc,
      by rw [← hlen _ (List.getElem_mem hc)]; exact memRead_zero_length _⟩]
    simp only [readWindows_full hlen k (c + 1) (by omega)]
    rw [← List.drop_eq_getElem_cons hc]

@[simp] theorem interleave_length : ∀ l r : List F32, (interleave l r).length = 2 * min l.length r.length
  | [], _ => by simp [interleave]
  | _ :: _, [] => by simp [interleave]
  | a :: ls, b :: rs => by simp [interleave, interleave_length ls rs]; omega

theorem interleave_getElem? : ∀ (l r : List F32) (j : Nat), l.length = r.length →
    (interleave l r)[2 * j]? = l[j]? ∧ (interleave l r)[2 * j + 1]? = r[j]?
  | [], [], _, _ => by simp [interleave]
  | a :: ls, b :: rs, 0, _ => by simp [interleave]
  | a :: ls, b :: rs, j + 1, h => by
    have := interleave_getElem? ls rs j (by simpa using h)
    simpa [interleave, show 2 * (j + 1) = 2 * j + 1 + 1 by omega] using this
  | [], _ :: _, _, h => by simp at h
  | _ :: _, [], _, h => by simp at h

theorem mem_interleave {w : F32} : ∀ {l r : List F32}, w ∈ interleave l r → w ∈ l ∨ w ∈ r
  | [], _, h => by simp [interleave] at h
  | _ :: _, [], h => by simp [interleave] at h
  | a :: ls, b :: rs, h => by
    simp only [interleave, List.mem_cons] at h ⊢
    rcases h with h | h | h
    · exact .inl (.inl h)
    · exact .inr (.inl h)
    · rcases mem_interleave h with h | h
      · exact .inl (.inr h)
      · exact .inr (.inr h)

theorem clipped_fits {a : Acc} {b : Nat} (h : a.Fits b) : a.clipped.Fits b := by
  simpa [Acc.clipped, Acc.Fits] using h

/-- A payload made of windows of `n` samples is cut back into them (R77). -/
theorem rawWindows_flatten {n : Nat} : ∀ (ws : List (List F32)), (∀ w ∈ ws, w.length = n) →
    rawWindows ws.length n ws.flatten = ws
  | [], _ => rfl
  | w :: ws, h => by
    have ih := rawWindows_flatten ws (fun v hv => h v (by simp [hv]))
    have hw := h w (by simp)
    unfold rawWindows at ih ⊢
    simp only [List.length_cons, List.range_succ_eq_map, List.map_cons, List.map_map]
    congr 1
    · simp [← hw]
    · refine Eq.trans (List.map_congr_left fun c _ => ?_) ih
      simp only [Function.comp, Nat.succ_eq_add_one, List.flatten_cons]
      rw [show (c + 1) * n = w.length + c * n by rw [hw]; ring, List.drop_append]
      simp [List.drop_of_length_le]

@[simp] theorem rawWindows_length (k n : Nat) (d : List Word) : (rawWindows k n d).length = k := by simp [rawWindows]

theorem rawWindows_rows {k n : Nat} {d : List Word} (h : d.length = k * n) :
    ∀ w ∈ rawWindows k n d, w.length = n := by
  intro w hw
  simp only [rawWindows, List.mem_map, List.mem_range] at hw
  obtain ⟨c, hc, rfl⟩ := hw
  have : (c + 1) * n ≤ k * n := Nat.mul_le_mul_right n hc
  rw [Nat.add_mul] at this
  simp [h]; omega

end Sys2Proof.Machine
end

