-- ==== Sys2Proof/Laws/Operands.lean ====
section
/-! SUPPORT. The operand fields of `ARG`, position codes and the mirror table, once. -/

namespace Sys2Proof.Machine

theorem argHighZero_iff {a : Arg} : argHighZero a = true ↔ a.toNat < 256 := by
  unfold argHighZero
  rw [decide_eq_true_iff]
  omega

theorem argLow_of_lt {a : Arg} (h : a.toNat < 256) : argLow a = a.toNat := Nat.mod_eq_of_lt h

/-- The channel operand is an index below the channel count exactly when `ARG` is one (R80, R182). -/
theorem channelOperand_iff {a : Arg} {c : Nat} :
    (argHighZero a && decide (argLow a < c)) = true ↔ a.toNat < 256 ∧ a.toNat < c := by
  rw [Bool.and_eq_true, argHighZero_iff, decide_eq_true_iff]
  constructor
  · rintro ⟨h, hc⟩
    exact ⟨h, argLow_of_lt h ▸ hc⟩
  · rintro ⟨h, hc⟩
    exact ⟨h, (argLow_of_lt h).symm ▸ hc⟩

theorem positionOperand_of_lt {c : Config} {a : Arg} (h : a.toNat < 256) :
    positionOperand c a = positionOfCode c a.toNat := by
  rw [positionOperand, if_pos (argHighZero_iff.2 h), argLow_of_lt h]

theorem positionOperand_of_le {c : Config} {a : Arg} (h : 256 ≤ a.toNat) : positionOperand c a = none := by
  rw [positionOperand, if_neg]
  rw [argHighZero_iff]
  omega

theorem registerOperand_of_lt {a : Arg} (h : a.toNat < 256) : registerOperand a = registerOfNumber a.toNat := by
  rw [registerOperand, if_pos (argHighZero_iff.2 h), argLow_of_lt h]

theorem registerOperand_of_le {a : Arg} (h : 256 ≤ a.toNat) : registerOperand a = none := by
  rw [registerOperand, if_neg]
  rw [argHighZero_iff]
  omega

/-- A decoded position is an assigned one (R130). -/
theorem positionOfCode_assigned {c : Config} {k : Nat} {p : Position} (h : positionOfCode c k = some p) :
    positionAssigned c p = true := by
  unfold positionOfCode at h
  split at h
  · rename_i hk
    interval_cases k <;> simp only [namedPositions] at h <;> cases h <;> rfl
  · split at h
    · split at h
      · rename_i he
        cases h
        exact he
      · cases h
    · cases h

end Sys2Proof.Machine
end

