-- ==== Sys2Proof/Laws/Construct.lean ====
section
/-! SUPPORT. What the steps of CONSTRUCT can do: what a decoded packet holds, what a built instance satisfies, and how a
packet assembled from named operands decodes. -/

namespace Sys2Proof.Machine

/-- Taking the result of a computation that may fail apart (R12 `raise`). -/
theorem bind_eq_ok {ε α β : Type} {x : Except ε α} {f : α → Except ε β} {b : β} (h : (x >>= f) = .ok b) :
    ∃ a, x = .ok a ∧ f a = .ok b := by
  cases x with
  | error e => cases h
  | ok a => exact ⟨a, rfl, h⟩

theorem decodePositions_assigned {c : Config} : ∀ {ws : List Word} {ps : List Position},
    decodePositions c ws = .ok ps → ∀ p ∈ ps, positionAssigned c p = true
  | [], ps, h => by cases h; simp
  | w :: ws, ps, h => by
    unfold decodePositions at h
    split at h
    · cases h
    rename_i p hp
    split at h
    · cases h
    rename_i ps' hps
    cases h
    intro q hq
    rcases List.mem_cons.1 hq with rfl | hq
    · split at hp
      · exact positionOfCode_assigned hp
      · cases hp
    · exact decodePositions_assigned hps q hq

/-- The positions of a decoded packet are assigned (R151). -/
theorem decodeRecording_assigned {c : Config} {l : Nat} {d : List Word} {r : Recording}
    (h : decodeRecording c l d = .ok r) : ∀ p ∈ r.positions, positionAssigned c p = true := by
  unfold decodeRecording at h
  split at h
  · split at h
    · split at h
      · split at h
        · cases h
        rename_i hp
        cases h
        exact decodePositions_assigned hp
      · cases h
    · cases h
  · cases h

theorem initIr_length {c : Config} {n : Nat} {b : List F32} {y : List C32} (h : initIr c n b = .ok y) :
    y.length = n / 2 + 1 := by
  unfold initIr at h
  split at h
  · cases h
  · rename_i hy
    cases h
    exact bkFwd_length hy

theorem resolveMirrors_length {c : Config} {map : List Position} : ∀ {ps : List Position} {ms : List Nat},
    resolveMirrors c map ps = .ok ms → ms.length = ps.length
  | [], ms, h => by cases h; rfl
  | p :: ps, ms, h => by
    unfold resolveMirrors at h
    split at h
    · cases h
    split at h
    · cases h
    rename_i hms
    cases h
    simp [resolveMirrors_length hms]

theorem storeImpulses_lengths {c : Config} {rows : List (List F32)} {frames n : Nat} :
    ∀ {ms : List Nat} {i : Nat} {ir : List (List C32)}, storeImpulses c rows frames n i ms = .ok ir →
      ir.length = 2 * ms.length ∧ ∀ slot ∈ ir, slot.length = n / 2 + 1
  | [], i, ir, h => by cases h; simp
  | m :: ms, i, ir, h => by
    unfold storeImpulses at h
    split at h
    · cases h
    rename_i left hl
    split at h
    · cases h
    rename_i right hr
    split at h
    · cases h
    rename_i rest hrest
    cases h
    obtain ⟨h1, h2⟩ := storeImpulses_lengths hrest
    refine ⟨by simp [h1]; ring, ?_⟩
    simp only [List.mem_cons, forall_eq_or_imp]
    exact ⟨initIr_length hl, initIr_length hr, h2⟩

/-- Resampling keeps the channel count and the positions (R153, R7). -/
theorem resampleStep_ok {c : Config} {r r' : Recording} {rate : Word} (h : resampleStep c r = .ok (r', rate)) :
    r'.positions = r.positions ∧ r'.rows.length = r.rows.length := by
  unfold resampleStep at h
  split at h
  · split at h
    · cases h
      simp [resampled]
    · cases h
  · cases h
    exact ⟨rfl, rfl⟩

/-- What step 2 hands on, for a recording that it does not refuse (R153). -/
theorem resampleStep_working {c : Config} {r : Recording} {rate : Word} {frames : Nat} {rows : List (List F32)}
    (hc : r.dstRate = 0 ∨ r.dstRate = r.srcRate ∨ c.hasResampler = true)
    (hw : WorkingRecording r.srcRate r.dstRate r.frames r.rows rate frames rows) :
    resampleStep c r = .ok ({ r with frames := frames, rows := rows }, rate) := by
  unfold WorkingRecording at hw
  unfold resampleStep
  split at hw
  · obtain ⟨rfl, rfl, rfl⟩ := hw
    rw [if_neg (by tauto)]
  · obtain ⟨rfl, rfl, hlen, hrow, hval⟩ := hw
    have hrows : (resampled r.rows r.srcRate r.dstRate r.rows.length).2 = rows := by
      refine List.ext_getElem (by simp [resampled, hlen]) fun i _ hi => ?_
      have hl := hrow _ (List.getElem_mem hi)
      refine List.ext_getElem (by simp [resampled, hl]) fun t _ ht => ?_
      have h := hval i t (by omega) (by omega)
      rw [List.getElem?_eq_getElem hi, Option.bind_some, List.getElem?_eq_getElem ht] at h
      simpa [resampled] using (Option.some.inj h).symm
    rw [if_pos (by tauto), if_pos (by tauto), ← hrows]
    rfl

/-- The rows that step 2 hands on: one a channel, all of one length (R153). -/
theorem WorkingRecording.shape {src dst rate : Word} {l frames : Nat} {data rows : List (List F32)}
    (hrow : ∀ row ∈ data, row.length = l) (hw : WorkingRecording src dst l data rate frames rows) :
    rows.length = data.length ∧ ∀ row ∈ rows, row.length = frames := by
  unfold WorkingRecording at hw
  split at hw
  · obtain ⟨-, rfl, rfl⟩ := hw
    exact ⟨rfl, hrow⟩
  · exact ⟨hw.2.2.1, hw.2.2.2.1⟩

/-- A built instance: `N` as planned for some recording length and within capacity, the positions as the map, at
most 24 of them, and two full slots each (R155, R156, R157, R159). -/
theorem buildInstance_ok {c : Config} {r : Recording} {b : Built} (h : buildInstance c r = .ok b) :
    ∃ frames, b.fftLen = planFftLen c frames ∧ b.map = r.positions ∧ b.map.length ≤ maxChannels ∧
      b.fftLen ≤ c.maxFftLen ∧ b.ir.length = 2 * b.map.length ∧ ∀ slot ∈ b.ir, slot.length = b.fftLen / 2 + 1 := by
  unfold buildInstance at h
  obtain ⟨_, -, h⟩ := bind_eq_ok h
  obtain ⟨⟨rec, rate⟩, h2, h⟩ := bind_eq_ok h
  obtain ⟨map, h3, h⟩ := bind_eq_ok h
  obtain ⟨_, h4, h⟩ := bind_eq_ok h
  obtain ⟨ms, h5, h⟩ := bind_eq_ok h
  obtain ⟨ir, h6, h⟩ := bind_eq_ok h
  cases h
  unfold fromPositions at h3
  split at h3
  · cases h3
  rename_i hlen
  cases h3
  unfold engineNew at h4
  split at h4
  on_goal 2 => cases h4
  rename_i hcap
  obtain ⟨h7, h8⟩ := storeImpulses_lengths h6
  exact ⟨rec.frames, rfl, (resampleStep_ok h2).1, by simpa using hlen, hcap.1,
    by simp [h7, resolveMirrors_length h5], h8⟩

theorem positionCode_toNat_lt (p : Position) : (positionCode p).toNat < 256 := (positionCode p).isLt

/-- The position of a position's code is the position (R130). -/
theorem positionOfCode_positionCode {c : Config} {p : Position} (h : positionAssigned c p = true) :
    positionOfCode c (positionCode p).toNat = some p := by
  cases p
  case ext k =>
    have hk := k.isLt
    simp only [positionAssigned] at h
    have h1 : (positionCode (.ext k)).toNat = 18 + k.val := by
      simp only [positionCode, BitVec.toNat_ofNat]
      omega
    unfold positionOfCode
    rw [h1, if_neg (by omega), dif_pos (by omega)]
    simp only [show (⟨18 + k.val - 18, by omega⟩ : Fin 6) = k from Fin.ext (by simp), h, if_true]
  all_goals rfl

theorem decodePositions_codes {c : Config} : ∀ {ps : List Position}, (∀ p ∈ ps, positionAssigned c p = true) →
    decodePositions c (ps.map fun p => (positionCode p).setWidth 32) = .ok ps
  | [], _ => rfl
  | p :: ps, h => by
    have hp := positionCode_toNat_lt p
    have h1 : ((positionCode p).setWidth 32).toNat = (positionCode p).toNat := by
      rw [BitVec.toNat_setWidth, Nat.mod_eq_of_lt (by omega)]
    have ih := decodePositions_codes fun q hq => h q (List.mem_cons_of_mem p hq)
    simp only [List.map_cons, decodePositions, h1, Nat.mod_eq_of_lt hp, Nat.div_eq_of_lt hp, if_true,
      positionOfCode_positionCode (h p (by simp)), ih]

theorem planarRows_flatten {l : Nat} : ∀ {data : List (List F32)}, (∀ row ∈ data, row.length = l) →
    planarRows l data.length data.flatten = data
  | [], _ => rfl
  | row :: data, h => by
    have hr : row.length = l := h row (by simp)
    simp only [List.length_cons, List.flatten_cons, planarRows]
    rw [← hr, List.take_left, List.drop_left, hr,
      planarRows_flatten fun r hr' => h r (List.mem_cons_of_mem row hr')]

theorem length_flatten_of_rows {l : Nat} : ∀ {data : List (List F32)}, (∀ row ∈ data, row.length = l) →
    data.flatten.length = data.length * l
  | [], _ => by simp
  | row :: data, h => by
    have ih := length_flatten_of_rows fun r hr => h r (List.mem_cons_of_mem row hr)
    simp only [List.flatten_cons, List.length_append, List.length_cons, h row (by simp), ih]
    ring

/-- A packet assembled from named operands decodes to them (R75, R88, R151). -/
theorem decodeRecording_constructPayload {c : Config} {enc bits : BitVec 8} {src dst : Word} {pos : List Position}
    {data : List (List F32)} {l : Nat} (hlen : data.length = pos.length) (hrow : ∀ row ∈ data, row.length = l)
    (hpos : pos.length < 2 ^ 32) (hassigned : ∀ p ∈ pos, positionAssigned c p = true) :
    decodeRecording c l (constructPayload enc bits src dst pos data) =
      .ok { encoding := enc, bits := bits, srcRate := src, dstRate := dst, positions := pos, frames := l,
            rows := data } := by
  have hcin : (BitVec.ofNat 32 pos.length).toNat = pos.length := by
    rw [BitVec.toNat_ofNat, Nat.mod_eq_of_lt hpos]
  have h1 : ((0#16 ++ enc) ++ bits : Word).extractLsb' 16 16 = 0#16 := by
    apply BitVec.eq_of_getLsbD_eq
    intro k hk
    simp only [BitVec.getLsbD_extractLsb', BitVec.getLsbD_append, show ¬ 16 + k < 8 by omega,
      show ¬ 16 + k - 8 < 8 by omega]
    simp
  have h2 : ((0#16 ++ enc) ++ bits : Word).extractLsb' 8 8 = enc := by
    apply BitVec.eq_of_getLsbD_eq
    intro k hk
    simp only [BitVec.getLsbD_extractLsb', BitVec.getLsbD_append, show ¬ 8 + k < 8 by omega,
      show 8 + k - 8 = k by omega]
    simp [hk]
  have h3 : ((0#16 ++ enc) ++ bits : Word).extractLsb' 0 8 = bits := by
    apply BitVec.eq_of_getLsbD_eq
    intro k hk
    simp only [BitVec.getLsbD_extractLsb', BitVec.getLsbD_append, Nat.zero_add]
    simp [hk]
  have h4 := length_flatten_of_rows hrow
  have h5 : (pos.map positionCode).map (fun c => c.setWidth 32) =
      pos.map (fun p => (positionCode p).setWidth 32) := by simp
  unfold constructPayload constructWords decodeRecording
  rw [h5]
  simp only [List.length_map, hcin, h1, h2, h3]
  rw [if_pos (by simp [h4, hlen]; omega), if_pos (by rfl), List.take_left' (by simp), List.drop_left' (by simp),
    decodePositions_codes hassigned, ← hlen, planarRows_flatten hrow]

end Sys2Proof.Machine
end

