-- ==== Sys2Proof/Laws/Decode.lean ====
section
/-! SUPPORT. Headers, their two fields, and words and their bytes. -/

namespace Sys2Proof

@[simp] theorem headerOpc_mkHeader (o : BitVec 8) (a : Arg) : headerOpc (mkHeader o a) = o := Machine.extract_high o a

@[simp] theorem headerArg_mkHeader (o : BitVec 8) (a : Arg) : headerArg (mkHeader o a) = a := Machine.extract_low o a

/-- A header is its two fields (R71). -/
theorem mkHeader_fields (h : Word) : mkHeader (headerOpc h) (headerArg h) = h := by
  apply BitVec.eq_of_getLsbD_eq
  intro k hk
  rw [mkHeader, BitVec.getLsbD_append, headerOpc, headerArg, BitVec.getLsbD_extractLsb', BitVec.getLsbD_extractLsb']
  by_cases hlow : k < 24
  · simp [hlow]
  · simp [hlow, show k - 24 < 8 by omega, show 24 + (k - 24) = k by omega]

theorem headerOpc_toNat (h : Word) : (headerOpc h).toNat = h.toNat / 2 ^ 24 := by
  have := h.isLt
  simp [headerOpc, BitVec.extractLsb'_toNat, Nat.shiftRight_eq_div_pow]
  omega

/-- The bytes of a word make the word (R52). -/
theorem word_of_its_bytes (w : Word) :
    (w.extractLsb' 24 8 ++ w.extractLsb' 16 8 ++ w.extractLsb' 8 8 ++ w.extractLsb' 0 8 : Word) = w := by
  apply BitVec.eq_of_getLsbD_eq
  intro k hk
  simp only [BitVec.getLsbD_append, BitVec.getLsbD_extractLsb']
  by_cases h0 : k < 8
  · simp [h0]
  by_cases h1 : k < 16
  · simp [h0, show k - 8 < 8 by omega, show 8 + (k - 8) = k by omega]
  by_cases h2 : k < 24
  · simp [h0, show ¬ k - 8 < 8 by omega, show k - 8 - 8 < 8 by omega, show 16 + (k - 8 - 8) = k by omega]
  · simp [h0, show ¬ k - 8 < 8 by omega, show ¬ k - 8 - 8 < 8 by omega, show k - 8 - 8 - 8 < 8 by omega,
      show 24 + (k - 8 - 8 - 8) = k by omega]

@[simp] theorem wordsOfBytes_flatMap (ws : List Word) : wordsOfBytes (ws.flatMap bytesOfWord) = some ws := by
  induction ws with
  | nil => rfl
  | cons w ws ih =>
    simp only [List.flatMap_cons, bytesOfWord, List.cons_append, List.nil_append, wordsOfBytes, ih]
    rw [word_of_its_bytes]

@[simp] theorem packetOfWords_words (p : Packet) : packetOfWords p.words = some p := rfl

/-- What a table answers stands in it. -/
theorem mem_of_lookup {α β : Type} [BEq α] [LawfulBEq α] {rows : List (α × β)} {a : α} {b : β}
    (h : rows.lookup a = some b) : (a, b) ∈ rows := by
  induction rows with
  | nil => simp at h
  | cons row rows ih =>
    obtain ⟨x, y⟩ := row
    rw [List.lookup_cons] at h
    split at h
    · rename_i hx
      obtain rfl := eq_of_beq hx
      simp_all
    · exact List.mem_cons_of_mem _ (ih h)

theorem namesRegister_eq_isSome_below :
    ((List.range 0x38).all fun k =>
      Arg.namesRegister (BitVec.ofNat 24 k) == (queryRows.lookup (BitVec.ofNat 24 k)).isSome) = true := by
  decide +kernel

theorem queryRows_numbers_lt : ∀ row ∈ queryRows, row.1.toNat < 0x38 := by simp [queryRows]

/-- The register rows of the table are the registers of R26. -/
theorem queryRows_lookup_isSome (a : Arg) : (queryRows.lookup a).isSome = a.namesRegister := by
  by_cases h : a.toNat < 0x38
  · have := List.all_eq_true.1 namesRegister_eq_isSome_below a.toNat (List.mem_range.2 h)
    rw [BitVec.ofNat_toNat, BitVec.setWidth_eq, beq_iff_eq] at this
    exact this.symm
  · have hn : a.namesRegister = false := by simp [Arg.namesRegister]; omega
    rw [hn, Option.isSome_eq_false_iff, Option.isNone_iff_eq_none, List.lookup_eq_none_iff]
    intro row hrow
    simp only [bne_iff_ne, ne_eq]
    rintro rfl
    exact h (queryRows_numbers_lt _ hrow)

theorem queryRows_lookup_eq_none {a : Arg} : queryRows.lookup a = none ↔ a.namesRegister = false := by
  rw [← queryRows_lookup_isSome, Option.isSome_eq_false_iff, Option.isNone_iff_eq_none]

end Sys2Proof
end

