-- ==== Sys2Proof/Laws/PerInstr.lean ====
section
/-! SUPPORT. A statement per instruction: which opcodes an encoded header can have. -/

namespace Sys2Proof.Laws.EncodedHeader

/-- The header of the instruction's packet has an opcode of the table (R74). -/
def Statement (i : Instr) : Prop :=
  headerOpc (encode i).header = queryOpc ∨ (opcodeRows.lookup (headerOpc (encode i).header)).isSome = true

theorem construct (l : Arg) (payload : List Word) : Statement (.construct l payload) := by
  right; simp only [encode, headerOpc_mkHeader]; rfl
theorem reset (arg : Arg) (payload : List Word) : Statement (.reset arg payload) := by
  right; simp only [encode, headerOpc_mkHeader]; rfl
theorem mapFind (arg : Arg) (payload : List Word) : Statement (.mapFind arg payload) := by
  right; simp only [encode, headerOpc_mkHeader]; rfl
theorem mapFindMirror (arg : Arg) (payload : List Word) : Statement (.mapFindMirror arg payload) := by
  right; simp only [encode, headerOpc_mkHeader]; rfl
theorem accZero (arg : Arg) (payload : List Word) : Statement (.accZero arg payload) := by
  right; simp only [encode, headerOpc_mkHeader]; rfl
theorem processChannel (arg : Arg) (payload : List Word) : Statement (.processChannel arg payload) := by
  right; simp only [encode, headerOpc_mkHeader]; rfl
theorem rawTransform (arg : Arg) (payload : List Word) : Statement (.rawTransform arg payload) := by
  right; simp only [encode, headerOpc_mkHeader]; rfl
theorem accRead (arg : Arg) (payload : List Word) : Statement (.accRead arg payload) := by
  right; simp only [encode, headerOpc_mkHeader]; rfl
theorem streamTransform (n : Arg) (payload : List Word) : Statement (.streamTransform n payload) := by
  right; simp only [encode, headerOpc_mkHeader]; rfl
theorem query (arg : Arg) (payload : List Word) : Statement (.query arg payload) := .inl (headerOpc_mkHeader _ _)
theorem queryPhase (payload : List Word) : Statement (.queryPhase payload) := .inl (headerOpc_mkHeader _ _)
theorem queryErr (payload : List Word) : Statement (.queryErr payload) := .inl (headerOpc_mkHeader _ _)
theorem queryErrInfo (payload : List Word) : Statement (.queryErrInfo payload) := .inl (headerOpc_mkHeader _ _)
theorem queryBlockSize (payload : List Word) : Statement (.queryBlockSize payload) := .inl (headerOpc_mkHeader _ _)
theorem queryMaxChannels (payload : List Word) : Statement (.queryMaxChannels payload) := .inl (headerOpc_mkHeader _ _)
theorem queryMaxFftLen (payload : List Word) : Statement (.queryMaxFftLen payload) := .inl (headerOpc_mkHeader _ _)
theorem queryHasResampler (payload : List Word) : Statement (.queryHasResampler payload) := .inl (headerOpc_mkHeader _ _)
theorem querySamplesRequired (payload : List Word) : Statement (.querySamplesRequired payload) := .inl (headerOpc_mkHeader _ _)
theorem querySampleLatency (payload : List Word) : Statement (.querySampleLatency payload) := .inl (headerOpc_mkHeader _ _)
theorem querySampleRate (payload : List Word) : Statement (.querySampleRate payload) := .inl (headerOpc_mkHeader _ _)
theorem queryChannelCount (payload : List Word) : Statement (.queryChannelCount payload) := .inl (headerOpc_mkHeader _ _)
theorem queryAvailable (payload : List Word) : Statement (.queryAvailable payload) := .inl (headerOpc_mkHeader _ _)
theorem queryPosition0 (payload : List Word) : Statement (.queryPosition0 payload) := .inl (headerOpc_mkHeader _ _)
theorem queryPosition1 (payload : List Word) : Statement (.queryPosition1 payload) := .inl (headerOpc_mkHeader _ _)
theorem queryPosition2 (payload : List Word) : Statement (.queryPosition2 payload) := .inl (headerOpc_mkHeader _ _)
theorem queryPosition3 (payload : List Word) : Statement (.queryPosition3 payload) := .inl (headerOpc_mkHeader _ _)
theorem queryPosition4 (payload : List Word) : Statement (.queryPosition4 payload) := .inl (headerOpc_mkHeader _ _)
theorem queryPosition5 (payload : List Word) : Statement (.queryPosition5 payload) := .inl (headerOpc_mkHeader _ _)
theorem queryPosition6 (payload : List Word) : Statement (.queryPosition6 payload) := .inl (headerOpc_mkHeader _ _)
theorem queryPosition7 (payload : List Word) : Statement (.queryPosition7 payload) := .inl (headerOpc_mkHeader _ _)
theorem queryPosition8 (payload : List Word) : Statement (.queryPosition8 payload) := .inl (headerOpc_mkHeader _ _)
theorem queryPosition9 (payload : List Word) : Statement (.queryPosition9 payload) := .inl (headerOpc_mkHeader _ _)
theorem queryPosition10 (payload : List Word) : Statement (.queryPosition10 payload) := .inl (headerOpc_mkHeader _ _)
theorem queryPosition11 (payload : List Word) : Statement (.queryPosition11 payload) := .inl (headerOpc_mkHeader _ _)
theorem queryPosition12 (payload : List Word) : Statement (.queryPosition12 payload) := .inl (headerOpc_mkHeader _ _)
theorem queryPosition13 (payload : List Word) : Statement (.queryPosition13 payload) := .inl (headerOpc_mkHeader _ _)
theorem queryPosition14 (payload : List Word) : Statement (.queryPosition14 payload) := .inl (headerOpc_mkHeader _ _)
theorem queryPosition15 (payload : List Word) : Statement (.queryPosition15 payload) := .inl (headerOpc_mkHeader _ _)
theorem queryPosition16 (payload : List Word) : Statement (.queryPosition16 payload) := .inl (headerOpc_mkHeader _ _)
theorem queryPosition17 (payload : List Word) : Statement (.queryPosition17 payload) := .inl (headerOpc_mkHeader _ _)
theorem queryPosition18 (payload : List Word) : Statement (.queryPosition18 payload) := .inl (headerOpc_mkHeader _ _)
theorem queryPosition19 (payload : List Word) : Statement (.queryPosition19 payload) := .inl (headerOpc_mkHeader _ _)
theorem queryPosition20 (payload : List Word) : Statement (.queryPosition20 payload) := .inl (headerOpc_mkHeader _ _)
theorem queryPosition21 (payload : List Word) : Statement (.queryPosition21 payload) := .inl (headerOpc_mkHeader _ _)
theorem queryPosition22 (payload : List Word) : Statement (.queryPosition22 payload) := .inl (headerOpc_mkHeader _ _)
theorem queryPosition23 (payload : List Word) : Statement (.queryPosition23 payload) := .inl (headerOpc_mkHeader _ _)

end Sys2Proof.Laws.EncodedHeader
end

