-- ==== Sys2Proof/Laws/Query.lean ====
section
/-! SUPPORT. What a QUERY of a register can do, once for all its rows, and which register each row of the table reads. -/

namespace Sys2Proof.Machine

/-- A QUERY that answers a next state sends one error response, or one word: the register's value. -/
theorem queryRegister_next {r : StatusReg} {d : List Word} {s t : State} (h : queryRegister r d s = .next t) :
    (∃ e, raiseError e s = .next t) ∨
      ∃ w, readRegister s r = some w ∧ d = [] ∧ respond [w] s = .next t ∧
        (registerAnyPhase r = true ∨ s.phase = .ready) ∧ registerPresent s r = true := by
  unfold queryRegister at h
  rcases require_next h with ⟨-, h⟩ | ⟨hp, h⟩
  · exact .inl ⟨_, h⟩
  rcases require_next h with ⟨-, h⟩ | ⟨hr, h⟩
  · exact .inl ⟨_, h⟩
  rcases require_next h with ⟨-, h⟩ | ⟨hd, h⟩
  · exact .inl ⟨_, h⟩
  split at h
  · simp at h
  · rename_i w hw
    exact .inr ⟨w, hw, by simpa using hd, h, by simpa using hp, hr⟩

/-- A readable register answers its value. -/
theorem queryRegister_of_readable {r : StatusReg} {s : State} {w : Word}
    (hp : registerAnyPhase r = true ∨ s.phase = .ready) (hr : registerPresent s r = true)
    (hw : readRegister s r = some w) : queryRegister r [] s = respond [w] s := by
  have : (registerAnyPhase r || decide (s.phase = .ready)) = true := by simpa using hp
  simp [queryRegister, this, hr, hw]

variable (d : List Word) (s : State)

theorem exec_queryPhase : exec (.queryPhase d) s = queryRegister .phase d s := rfl
theorem exec_queryErr : exec (.queryErr d) s = queryRegister .err d s := rfl
theorem exec_queryErrInfo : exec (.queryErrInfo d) s = queryRegister .errInfo d s := rfl
theorem exec_queryBlockSize : exec (.queryBlockSize d) s = queryRegister .blockSize d s := rfl
theorem exec_queryMaxChannels : exec (.queryMaxChannels d) s = queryRegister .maxChannels d s := rfl
theorem exec_queryMaxFftLen : exec (.queryMaxFftLen d) s = queryRegister .maxFftLen d s := rfl
theorem exec_queryHasResampler : exec (.queryHasResampler d) s = queryRegister .hasResampler d s := rfl
theorem exec_querySamplesRequired : exec (.querySamplesRequired d) s = queryRegister .samplesRequired d s := rfl
theorem exec_querySampleLatency : exec (.querySampleLatency d) s = queryRegister .sampleLatency d s := rfl
theorem exec_querySampleRate : exec (.querySampleRate d) s = queryRegister .sampleRate d s := rfl
theorem exec_queryChannelCount : exec (.queryChannelCount d) s = queryRegister .channelCount d s := rfl
theorem exec_queryAvailable : exec (.queryAvailable d) s = queryRegister .available d s := rfl
theorem exec_queryPosition0 : exec (.queryPosition0 d) s = queryRegister (.position 0) d s := rfl
theorem exec_queryPosition1 : exec (.queryPosition1 d) s = queryRegister (.position 1) d s := rfl
theorem exec_queryPosition2 : exec (.queryPosition2 d) s = queryRegister (.position 2) d s := rfl
theorem exec_queryPosition3 : exec (.queryPosition3 d) s = queryRegister (.position 3) d s := rfl
theorem exec_queryPosition4 : exec (.queryPosition4 d) s = queryRegister (.position 4) d s := rfl
theorem exec_queryPosition5 : exec (.queryPosition5 d) s = queryRegister (.position 5) d s := rfl
theorem exec_queryPosition6 : exec (.queryPosition6 d) s = queryRegister (.position 6) d s := rfl
theorem exec_queryPosition7 : exec (.queryPosition7 d) s = queryRegister (.position 7) d s := rfl
theorem exec_queryPosition8 : exec (.queryPosition8 d) s = queryRegister (.position 8) d s := rfl
theorem exec_queryPosition9 : exec (.queryPosition9 d) s = queryRegister (.position 9) d s := rfl
theorem exec_queryPosition10 : exec (.queryPosition10 d) s = queryRegister (.position 10) d s := rfl
theorem exec_queryPosition11 : exec (.queryPosition11 d) s = queryRegister (.position 11) d s := rfl
theorem exec_queryPosition12 : exec (.queryPosition12 d) s = queryRegister (.position 12) d s := rfl
theorem exec_queryPosition13 : exec (.queryPosition13 d) s = queryRegister (.position 13) d s := rfl
theorem exec_queryPosition14 : exec (.queryPosition14 d) s = queryRegister (.position 14) d s := rfl
theorem exec_queryPosition15 : exec (.queryPosition15 d) s = queryRegister (.position 15) d s := rfl
theorem exec_queryPosition16 : exec (.queryPosition16 d) s = queryRegister (.position 16) d s := rfl
theorem exec_queryPosition17 : exec (.queryPosition17 d) s = queryRegister (.position 17) d s := rfl
theorem exec_queryPosition18 : exec (.queryPosition18 d) s = queryRegister (.position 18) d s := rfl
theorem exec_queryPosition19 : exec (.queryPosition19 d) s = queryRegister (.position 19) d s := rfl
theorem exec_queryPosition20 : exec (.queryPosition20 d) s = queryRegister (.position 20) d s := rfl
theorem exec_queryPosition21 : exec (.queryPosition21 d) s = queryRegister (.position 21) d s := rfl
theorem exec_queryPosition22 : exec (.queryPosition22 d) s = queryRegister (.position 22) d s := rfl
theorem exec_queryPosition23 : exec (.queryPosition23 d) s = queryRegister (.position 23) d s := rfl

end Sys2Proof.Machine
end

