-- ==== Sys2Proof/Machine/Text.lean ====
section
/-! DEFINITION. The text form of commands, pseudo-commands and responses (30_encoding R88, R89), over the characters of
a line. What R88 does not settle (spaces inside brackets, the order of operands, an exponent in a decimal literal,
how a response word is written) is log entry 20. -/

namespace Sys2Proof.Machine

/-- The value of a digit in bases up to 16; 99 for any other character. -/
def digitValue (c : Char) : Nat :=
  let n := c.toNat
  if 48 ≤ n ∧ n ≤ 57 then n - 48
  else if 65 ≤ n ∧ n ≤ 70 then n - 55
  else if 97 ≤ n ∧ n ≤ 102 then n - 87
  else 99

/-- A number of digits read so far, extended by the digits that follow; none at a character that is no digit. -/
def readDigitsFrom (base : Nat) (acc : Nat) : List Char → Option Nat
  | [] => some acc
  | c :: cs => if digitValue c < base then readDigitsFrom base (acc * base + digitValue c) cs else none

/-- One or more digits. -/
def readDigits (base : Nat) (cs : List Char) : Option Nat :=
  if cs.isEmpty then none else readDigitsFrom base 0 cs

/-- An integer: decimal, or hexadecimal after `0x` (R88). -/
def readInteger : List Char → Option Nat
  | '0' :: 'x' :: ds => readDigits 16 ds
  | ds => readDigits 10 ds

/-- An integer that fits an unsigned field of `w` bits (R73). -/
def readField (w : Nat) (cs : List Char) : Option (BitVec w) :=
  match readInteger cs with
  | some n => if n < 2 ^ w then some (BitVec.ofNat w n) else none
  | none => none

/-- A sign, if there is one: is it minus, and what follows. -/
def readSign : List Char → Bool × List Char
  | '-' :: cs => (true, cs)
  | '+' :: cs => (false, cs)
  | cs => (false, cs)

/-- The pieces between the separators that stand outside all brackets, never empty; `depth` brackets are open and
`cur` is the current piece, last character first. -/
def splitFrom (sep : Char) (depth : Nat) (cur : List Char) : List Char → List (List Char)
  | [] => [cur.reverse]
  | c :: cs =>
    if c = sep ∧ depth = 0 then cur.reverse :: splitFrom sep 0 [] cs
    else splitFrom sep (if c = '[' then depth + 1 else if c = ']' then depth - 1 else depth) (c :: cur) cs

/-- The pieces of a text between separators outside brackets. -/
def splitOutside (sep : Char) (cs : List Char) : List (List Char) := splitFrom sep 0 [] cs

/-- The text without the spaces at its two ends. -/
def trimSpaces (cs : List Char) : List Char :=
  ((cs.dropWhile (· = ' ')).reverse.dropWhile (· = ' ')).reverse

/-- The binary32 nearest to `m * 10^e`, ties to even (R88, R100). -/
def decimalMagnitude (m : Nat) (e : Int) : Nat :=
  if 0 ≤ e then roundUnits (m * 10 ^ e.toNat * 2 ^ 149) 1
  else roundUnits (m * 2 ^ 149) (10 ^ (-e).toNat)

/-- The exponent part of a decimal literal, absent or after `e`. -/
def readExponent : List (List Char) → Option Int
  | [] => some 0
  | [cs] =>
    match readDigits 10 (readSign cs).2 with
    | some n => some (if (readSign cs).1 then -(n : Int) else n)
    | none => none
  | _ => none

/-- The digits of a decimal literal without its sign and exponent: the number they spell with the point removed, and
how many follow the point. At least one digit stands on some side of the point. -/
def readMantissa (cs : List Char) : Option (Nat × Nat) :=
  match splitOutside '.' cs with
  | [whole] => (readDigits 10 whole).map fun m => (m, 0)
  | [whole, fraction] => (readDigits 10 (whole ++ fraction)).map fun m => (m, fraction.length)
  | _ => none

/-- A decimal float literal: the binary32 nearest to it (R88). -/
def readDecimal (cs : List Char) : Option F32 :=
  match splitOutside 'e' (readSign cs).2 with
  | mantissa :: exponent =>
    match readMantissa mantissa, readExponent exponent with
    | some m, some e => some (withSign (readSign cs).1 (decimalMagnitude m.1 (e - m.2)))
    | _, _ => none
  | [] => none

/-- A sample: `#` and the eight hexadecimal digits of its pattern, or a decimal float literal (R88). -/
def readSample : List Char → Option F32
  | '#' :: ds =>
    if ds.length = 8 then (readDigits 16 ds).map (BitVec.ofNat 32) else none
  | cs => readDecimal cs

/-- The mnemonics of R130 with their codes. -/
def positionNames : List (String × BitVec 8) :=
  [("FL", 0), ("FR", 1), ("FC", 2), ("LFE", 3), ("RL", 4), ("RR", 5), ("FLC", 6), ("FRC", 7), ("RC", 8),
   ("SL", 9), ("SR", 10), ("TFL", 11), ("TFR", 12), ("TFC", 13), ("TC", 14), ("TRL", 15), ("TRR", 16),
   ("TRC", 17)]

/-- A position: its mnemonic or its code (R88). -/
def readPosition (cs : List Char) : Option (BitVec 8) :=
  match positionNames.lookup (String.ofList cs) with
  | some code => some code
  | none => readField 8 cs

/-- The names of the status registers of R26 that carry no index, with their numbers. -/
def registerNames : List (String × BitVec 8) :=
  [("PHASE", 0x00), ("ERR", 0x01), ("ERR_INFO", 0x02), ("BLOCK_SIZE", 0x03), ("MAX_CHANNELS", 0x04),
   ("MAX_FFT_LEN", 0x05), ("HAS_RESAMPLER", 0x06), ("SAMPLES_REQUIRED", 0x08), ("SAMPLE_LATENCY", 0x09),
   ("SAMPLE_RATE", 0x0A), ("CHANNEL_COUNT", 0x0B), ("AVAILABLE", 0x0C)]

/-- The inside of a bracketed text. -/
def insideBrackets : List Char → Option (List Char)
  | '[' :: cs =>
    match cs.reverse with
    | ']' :: inner => some inner.reverse
    | _ => none
  | _ => none

/-- `POSITION[i]` with `i` from 0 to 23 (R26). -/
def readPositionRegister (cs : List Char) : Option (BitVec 8) :=
  if String.ofList (cs.take 8) = "POSITION" then
    match insideBrackets (cs.drop 8) with
    | some inner =>
      match readInteger inner with
      | some i => if i < 24 then some (BitVec.ofNat 8 (0x20 + i)) else none
      | none => none
    | none => none
  else none

/-- A status register: its name or its number (R88, R26). -/
def readRegisterName (cs : List Char) : Option (BitVec 8) :=
  match registerNames.lookup (String.ofList cs) with
  | some r => some r
  | none =>
    match readPositionRegister cs with
    | some r => some r
    | none => readField 8 cs

/-- Every piece read as one thing, or none. -/
def readAll {α : Type} (read : List Char → Option α) : List (List Char) → Option (List α)
  | [] => some []
  | c :: cs =>
    match read c, readAll read cs with
    | some x, some xs => some (x :: xs)
    | _, _ => none

/-- One item of a list: a value, or `v*k` for `k` copies of `v` (R88). -/
def readItem {α : Type} (read : List Char → Option α) (cs : List Char) : Option (List α) :=
  match splitOutside '*' cs with
  | [v] => (read (trimSpaces v)).map fun x => [x]
  | [v, k] =>
    match read (trimSpaces v), readInteger (trimSpaces k) with
    | some x, some n => some (List.replicate n x)
    | _, _ => none
  | _ => none

/-- A list in brackets, its items between commas (R88). -/
def readList {α : Type} (read : List Char → Option α) (cs : List Char) : Option (List α) :=
  match insideBrackets cs with
  | some inner =>
    if (trimSpaces inner).isEmpty then some []
    else (readAll (readItem read) (splitOutside ',' inner)).map List.flatten
  | none => none

/-- One window: a list of samples. -/
def readSamples : List Char → Option (List F32) := readList readSample

/-- A list of windows or frames. -/
def readRows : List Char → Option (List (List F32)) := readList readSamples

/-- The words of a line: what stands between spaces outside brackets. -/
def lineWords (cs : List Char) : List (List Char) := (splitOutside ' ' cs).filter fun w => !w.isEmpty

/-- An operand `name=value`. -/
def readOperand (cs : List Char) : Option (String × List Char) :=
  match cs.dropWhile (· ≠ '=') with
  | _ :: value => some (String.ofList (cs.takeWhile (· ≠ '=')), value)
  | [] => none

/-- The value of a named operand, read as what it stands for. -/
def operand {α : Type} (ops : List (String × List Char)) (name : String) (read : List Char → Option α) : Option α :=
  match ops.lookup name with
  | some value => read value
  | none => none

/-- The rows have one common length (R88: "`L` is the common length of the inner lists"). -/
def commonLength (rows : List (List F32)) : Bool := rows.all fun r => decide (r.length = (rows.headD []).length)

/-- CONSTRUCT from its six operands (R88). -/
def readConstruct (ops : List (String × List Char)) : Option AsmLine :=
  match operand ops "enc" (readField 8), operand ops "bits" (readField 8), operand ops "src" (readField 32),
    operand ops "dst" (readField 32), operand ops "pos" (readList readPosition), operand ops "data" readRows with
  | some enc, some bits, some src, some dst, some pos, some data =>
    if commonLength data then some (.construct enc bits src dst pos data) else none
  | _, _, _, _, _, _ => none

/-- PROCESS_CHANNEL from its two operands (R88). -/
def readProcessChannel (ops : List (String × List Char)) : Option AsmLine :=
  match operand ops "ch" (readField 8), operand ops "win" readSamples with
  | some ch, some win => some (.processChannel ch win)
  | _, _ => none

/-- The commands of R88: mnemonic, number of operands, what they make. -/
def commandSyntax : List (String × Nat × (List (String × List Char) → Option AsmLine)) :=
  [("CONSTRUCT", 6, readConstruct),
   ("RESET", 0, fun _ => some .reset),
   ("MAP_FIND", 1, fun ops => (operand ops "p" readPosition).map .mapFind),
   ("MAP_FIND_MIRROR", 1, fun ops => (operand ops "p" readPosition).map .mapFindMirror),
   ("ACC_ZERO", 0, fun _ => some .accZero),
   ("PROCESS_CHANNEL", 2, readProcessChannel),
   ("RAW_TRANSFORM", 1, fun ops => (operand ops "win" readRows).map .rawTransform),
   ("ACC_READ", 0, fun _ => some .accRead),
   ("STREAM_TRANSFORM", 1, fun ops => (operand ops "frames" readRows).map .streamTransform),
   ("QUERY", 1, fun ops => (operand ops "r" readRegisterName).map .query)]

/-- A command from the words of its line (R88). -/
def readCommand : List (List Char) → Option AsmLine
  | [] => none
  | mnemonic :: rest =>
    match commandSyntax.lookup (String.ofList mnemonic), readAll readOperand rest with
    | some (count, make), some ops => if ops.length = count then make ops else none
    | _, _ => none

/-- The pseudo-commands of R89 without operands, on an instance of `channels` channels. -/
def barePseudo (channels : Nat) : List (String × Pseudo) :=
  [("SAMPLES_REQUIRED", .samplesRequired), ("BLOCK_SIZE", .blockSize), ("SAMPLE_LATENCY", .sampleLatency),
   ("SAMPLE_RATE", .sampleRate), ("CHANNEL_COUNT", .channelCount), ("POSITIONS", .positions channels)]

/-- A pseudo-command (R89) from its mnemonic and the rest of its line. -/
def readPseudo (channels : Nat) (mnemonic rest : List Char) : Option Pseudo :=
  match (barePseudo channels).lookup (String.ofList mnemonic) with
  | some p => if rest.isEmpty then some p else none
  | none =>
    if String.ofList mnemonic = "RAW_CYCLE" then
      match readOperand rest with
      | some op => operand [op] "win" fun cs => (readRows cs).map .rawCycle
      | none => none
    else if String.ofList mnemonic = "CHANNEL_CYCLE" then
      if rest.isEmpty then some (.channelCycle [])
      else (readAll (fun cs => readSamples (trimSpaces cs)) (splitOutside ',' rest)).map .channelCycle
    else if String.ofList mnemonic = "STREAM_SILENCE" then
      (readInteger rest).map fun n => .streamSilence n channels
    else none

/-- The commands that a line stands for, on an instance of `channels` channels: one command (R88), or the expansion
of a pseudo-command (R89). None for a text that is no line. -/
def readLine (channels : Nat) (line : List Char) : Option (List AsmLine) :=
  match readCommand (lineWords line) with
  | some cmd => some [cmd]
  | none =>
    let text := trimSpaces line
    (readPseudo channels (text.takeWhile (· ≠ ' ')) (trimSpaces (text.dropWhile (· ≠ ' ')))).map expand

/-- The packets of a line (R88, R89). -/
def assembleText (channels : Nat) (line : List Char) : Option (List Packet) :=
  (readLine channels line).map fun cmds => cmds.map fun c => encode (assemble c)

/-- The names of the error codes (R82). -/
def errorNames : List (BitVec 8 × String) :=
  [(0x01, "UnsupportedFormat"), (0x02, "TooManyChannels"), (0x03, "AsymmetricHRIR"), (0x04, "ResamplingUnavailable"),
   (0x05, "TransformBackendFailure"), (0x10, "BadOpcode"), (0x11, "BadLength"), (0x12, "BadOperand"),
   (0x13, "BadPhase"), (0x14, "ChunkTooLarge")]

/-- The character of a digit below 16. -/
def hexDigit (d : Nat) : Char := Char.ofNat (if d < 10 then 48 + d else 55 + d)

/-- A number as `0x` and `n` hexadecimal digits (R9). -/
def writeHex (n v : Nat) : List Char :=
  '0' :: 'x' :: ((List.range n).reverse.map fun i => hexDigit (v >>> (4 * i) % 16))

/-- Words between commas, in brackets. -/
def writeWords (ws : List Word) : List Char :=
  '[' :: ((ws.map fun w => writeHex 8 w.toNat).intersperse [',', ' ']).flatten ++ [']']

/-- A response as text: `-> OK [payload]` or `-> <ErrorName>(info)`; none for a status code that R82 does not name. -/
def writeResponse (r : Response) : Option (List Char) :=
  let code := r.status.extractLsb' 24 8
  if code = 0 then some ("-> OK ".toList ++ writeWords r.payload)
  else (errorNames.lookup code).map fun name =>
    "-> ".toList ++ name.toList ++ '(' :: writeHex 6 (r.status.extractLsb' 0 24).toNat ++ [')']

end Sys2Proof.Machine
end

