-- ==== Sys2Proof/Tests/Slice0.lean ====
section
/-! SUPPORT. Tests. The expected words are those of spec/95_test_vectors.md (the vector or program line is named); for each
statement with hypotheses, a witness that meets them. -/

namespace Sys2Proof.Tests

open Sys2Proof.Machine

-- One theorem after another: checking these side by side starts too many threads.
set_option Elab.async false

/-! ### The states of the tests -/

/-- Instance A of V20: `B = 2`, `N = 4`, channels FL and FR. -/
def specFL : List C32 :=
  [⟨0x3E888889, 0x00000000⟩, ⟨0x3E888889, 0x80000000⟩, ⟨0x3E888889, 0x00000000⟩]
def specFR : List C32 :=
  [⟨0x3E088889, 0x00000000⟩, ⟨0x3E088889, 0x80000000⟩, ⟨0x3E088889, 0x00000000⟩]
def instA : State :=
  { State.powerOn (Config.test 2) with
    phase := .ready, fftLen := 4, sampleRate := 48000, channelCount := 2, map := [.FL, .FR],
    ir := [specFL, specFR, specFR, specFL], win := [[], []], acc := Acc.zeroed 2 }

/-- Instance A after call 1 of V40: frames f0, f1 in the windows. -/
def instA2 : State :=
  { instA with available := 2, win := [[0x3F800000, 0x00000000], [0x00000000, 0x3F800000]] }

/-- Instance A on the backend that fails on `DEADBEEF`, after line 2 of P5. -/
def instX : State :=
  { instA with
    cfg := { Config.test 2 with backend := .ref4x 0xDEADBEEF }, available := 2,
    win := [[0xDEADBEEF, 0x00000000], [0x00000000, 0x3F800000]] }

/-- A live instance with no channels (V25 c). -/
def inst0 : State := { instA with channelCount := 0, map := [], ir := [], win := [] }

/-- The machine of the test programs after reset. -/
def emptyA : State := State.powerOn (Config.test 2)

/-- Parameters with two extension positions that mirror each other. -/
def cfgExt : Config := { Config.test 2 with posExt := [(0, 1), (1, 0)] }

/-- One step on one packet. -/
def sendTo (s : State) (header : Word) (payload : List Word) : Result :=
  step { s with hostIn := [.command ⟨header, payload⟩] }

/-- The words of the last response. -/
def reply : Result → Option (List Word)
  | .next t => t.hostOut.getLast?.map fun r => r.status :: r.payload
  | _ => none

/-- The outcome is a next state with the property. -/
def nextSuch (p : State → Bool) : Result → Bool
  | .next t => p t
  | _ => false

theorem nextSuch_spec {p : State → Bool} {r : Result} (h : nextSuch p r = true) : ∃ t, r = .next t ∧ p t = true := by
  cases r with
  | next t => exact ⟨t, rfl, h⟩
  | fault e => cases h
  | refused e => cases h

/-! ### WellFormed: the only check -/

theorem test_query_of_a_register_row_is_ill_formed : (Instr.query 0x08 []).wellFormed = false := by decide
theorem test_query_of_the_last_register_is_ill_formed : (Instr.query 0x37 [1]).wellFormed = false := by decide
theorem test_query_of_a_reserved_number_is_well_formed : (Instr.query 0x07 []).wellFormed = true := by decide

/-! ### Decode: one word per constructor, written from R71, R74 and R26 -/

theorem test_decode_construct : decode ⟨0x01000001, [0x120]⟩ = .ok (.construct 0x000001 [0x120]) := by rfl
theorem test_decode_reset : decode ⟨0x02000000, []⟩ = .ok (.reset 0 []) := by rfl
theorem test_decode_mapFind : decode ⟨0x10000004, []⟩ = .ok (.mapFind 4 []) := by rfl
theorem test_decode_mapFindMirror : decode ⟨0x11000009, []⟩ = .ok (.mapFindMirror 9 []) := by rfl
theorem test_decode_accZero : decode ⟨0x20000000, []⟩ = .ok (.accZero 0 []) := by rfl
theorem test_decode_processChannel : decode ⟨0x21000017, [7, 8]⟩ = .ok (.processChannel 23 [7, 8]) := by rfl
theorem test_decode_rawTransform : decode ⟨0x22000000, [7]⟩ = .ok (.rawTransform 0 [7]) := by rfl
theorem test_decode_accRead : decode ⟨0x23000000, []⟩ = .ok (.accRead 0 []) := by rfl
theorem test_decode_streamTransform : decode ⟨0x30FFFFFF, [7]⟩ = .ok (.streamTransform 0xFFFFFF [7]) := by rfl
theorem test_decode_query : decode ⟨0x40000038, []⟩ = .ok (.query 0x38 []) := by rfl
theorem test_decode_queryPhase : decode ⟨0x40000000, []⟩ = .ok (.queryPhase []) := by rfl
theorem test_decode_queryErr : decode ⟨0x40000001, []⟩ = .ok (.queryErr []) := by rfl
theorem test_decode_queryErrInfo : decode ⟨0x40000002, []⟩ = .ok (.queryErrInfo []) := by rfl
theorem test_decode_queryBlockSize : decode ⟨0x40000003, []⟩ = .ok (.queryBlockSize []) := by rfl
theorem test_decode_queryMaxChannels : decode ⟨0x40000004, []⟩ = .ok (.queryMaxChannels []) := by rfl
theorem test_decode_queryMaxFftLen : decode ⟨0x40000005, []⟩ = .ok (.queryMaxFftLen []) := by rfl
theorem test_decode_queryHasResampler : decode ⟨0x40000006, []⟩ = .ok (.queryHasResampler []) := by rfl
theorem test_decode_querySamplesRequired : decode ⟨0x40000008, []⟩ = .ok (.querySamplesRequired []) := by rfl
theorem test_decode_querySampleLatency : decode ⟨0x40000009, []⟩ = .ok (.querySampleLatency []) := by rfl
theorem test_decode_querySampleRate : decode ⟨0x4000000A, []⟩ = .ok (.querySampleRate []) := by rfl
theorem test_decode_queryChannelCount : decode ⟨0x4000000B, []⟩ = .ok (.queryChannelCount []) := by rfl
theorem test_decode_queryAvailable : decode ⟨0x4000000C, []⟩ = .ok (.queryAvailable []) := by rfl
theorem test_decode_queryPosition0 : decode ⟨0x40000020, []⟩ = .ok (.queryPosition0 []) := by rfl
theorem test_decode_queryPosition1 : decode ⟨0x40000021, []⟩ = .ok (.queryPosition1 []) := by rfl
theorem test_decode_queryPosition2 : decode ⟨0x40000022, []⟩ = .ok (.queryPosition2 []) := by rfl
theorem test_decode_queryPosition3 : decode ⟨0x40000023, []⟩ = .ok (.queryPosition3 []) := by rfl
theorem test_decode_queryPosition4 : decode ⟨0x40000024, []⟩ = .ok (.queryPosition4 []) := by rfl
theorem test_decode_queryPosition5 : decode ⟨0x40000025, []⟩ = .ok (.queryPosition5 []) := by rfl
theorem test_decode_queryPosition6 : decode ⟨0x40000026, []⟩ = .ok (.queryPosition6 []) := by rfl
theorem test_decode_queryPosition7 : decode ⟨0x40000027, []⟩ = .ok (.queryPosition7 []) := by rfl
theorem test_decode_queryPosition8 : decode ⟨0x40000028, []⟩ = .ok (.queryPosition8 []) := by rfl
theorem test_decode_queryPosition9 : decode ⟨0x40000029, []⟩ = .ok (.queryPosition9 []) := by rfl
theorem test_decode_queryPosition10 : decode ⟨0x4000002A, []⟩ = .ok (.queryPosition10 []) := by rfl
theorem test_decode_queryPosition11 : decode ⟨0x4000002B, []⟩ = .ok (.queryPosition11 []) := by rfl
theorem test_decode_queryPosition12 : decode ⟨0x4000002C, []⟩ = .ok (.queryPosition12 []) := by rfl
theorem test_decode_queryPosition13 : decode ⟨0x4000002D, []⟩ = .ok (.queryPosition13 []) := by rfl
theorem test_decode_queryPosition14 : decode ⟨0x4000002E, []⟩ = .ok (.queryPosition14 []) := by rfl
theorem test_decode_queryPosition15 : decode ⟨0x4000002F, []⟩ = .ok (.queryPosition15 []) := by rfl
theorem test_decode_queryPosition16 : decode ⟨0x40000030, []⟩ = .ok (.queryPosition16 []) := by rfl
theorem test_decode_queryPosition17 : decode ⟨0x40000031, []⟩ = .ok (.queryPosition17 []) := by rfl
theorem test_decode_queryPosition18 : decode ⟨0x40000032, []⟩ = .ok (.queryPosition18 []) := by rfl
theorem test_decode_queryPosition19 : decode ⟨0x40000033, []⟩ = .ok (.queryPosition19 []) := by rfl
theorem test_decode_queryPosition20 : decode ⟨0x40000034, []⟩ = .ok (.queryPosition20 []) := by rfl
theorem test_decode_queryPosition21 : decode ⟨0x40000035, []⟩ = .ok (.queryPosition21 []) := by rfl
theorem test_decode_queryPosition22 : decode ⟨0x40000036, []⟩ = .ok (.queryPosition22 []) := by rfl
theorem test_decode_queryPosition23 : decode ⟨0x40000037, []⟩ = .ok (.queryPosition23 []) := by rfl

/-- The header of STREAM_TRANSFORM with 512 frames, bit by bit: `0011 0000` and `ARG` = 2^9. -/
theorem test_decode_bits :
    decode ⟨0b00110000000000000000001000000000, [1]⟩ = .ok (.streamTransform 512 [1]) := by rfl
theorem test_decode_unassigned : decode ⟨0x7F000001, [5]⟩ = .error (.unassignedOpcode 0x7F) := by rfl
/-- R52: the least significant byte first. -/
theorem test_bytes : bytesOfWord 0x3F800000 = [0x00, 0x00, 0x80, 0x3F] := by decide
theorem test_decode_bytes :
    decodeBytes [0x02, 0x00, 0x00, 0x30, 0x78, 0x56, 0x34, 0x12] = .ok (.streamTransform 2 [0x12345678]) := by rfl
theorem test_partial_word : decodeBytes [0x00, 0x00, 0x00] = .error .partialWord := by rfl
theorem test_table_word : decodeTableWord 32 0x11000002 = some (.mapFindMirror 2 []) := by rfl
theorem test_fetch_runs_the_table_word : reply (step (instA.withFetchWord 32 0x4000000B)) = some [1, 2] := by
  decide +kernel

/-! ### One command on a small state -/

/-- V26, P3 line 6. -/
theorem test_construct_no_mirror : reply (sendTo emptyA 0x01000001 [0x00000120, 0x00000003, 0x0000BB80, 0x00000000, 0x00000000, 0x00000001, 0x00000009, 0x3F800000, 0x3F000000, 0x3E800000]) = some [0x03000009] := by
  decide +kernel

/-- V50. -/
theorem test_reset : reply (sendTo instA2 0x02000000 []) = some [0x00000000] := by
  decide +kernel

/-- V50. -/
theorem test_reset_with_arg : reply (sendTo instA 0x02000001 []) = some [0x12000001] := by
  decide +kernel

/-- V13. -/
theorem test_mapFind : reply (sendTo instA 0x10000001 []) = some [0x00000001, 0x00000001] := by
  decide +kernel

/-- V13. -/
theorem test_mapFind_none : reply (sendTo instA 0x10000002 []) = some [0x00000000] := by
  decide +kernel

/-- V13. -/
theorem test_mapFindMirror : reply (sendTo instA 0x11000000 []) = some [0x00000001, 0x00000001] := by
  decide +kernel

/-- V13. -/
theorem test_mapFindMirror_high_bits : reply (sendTo instA 0x11000101 []) = some [0x12000101] := by
  decide +kernel

/-- V37. -/
theorem test_accZero : reply (sendTo instA 0x20000000 []) = some [0x00000000] := by
  decide +kernel

/-- V39. -/
theorem test_accZero_empty : reply (sendTo emptyA 0x20000000 []) = some [0x13000000] := by
  decide +kernel

/-- V39. -/
theorem test_processChannel_length : reply (sendTo instA 0x21000000 [0x00000000, 0x00000000, 0x00000000]) = some [0x11000004] := by
  decide +kernel

/-- V39. -/
theorem test_rawTransform_length : reply (sendTo instA 0x22000000 [0x00000000, 0x00000000, 0x00000000, 0x00000000, 0x00000000, 0x00000000, 0x00000000]) = some [0x11000008] := by
  decide +kernel

/-- V30. -/
theorem test_accRead : reply (sendTo { instA with acc := ⟨[0x3E888889, 0x3E088889], [0x3E088889, 0x3E888889]⟩ } 0x23000000 []) = some [0x00000004, 0x3E888889, 0x3E088889, 0x3E088889, 0x3E888889] := by
  decide +kernel

/-- V37. -/
theorem test_accRead_length : reply (sendTo instA 0x23000000 [0x00000000]) = some [0x11000000] := by
  decide +kernel

/-- V40 call 2. -/
theorem test_streamTransform : reply (sendTo instA2 0x30000002 [0x3F000000, 0x3F000000, 0xBF800000, 0x3E800000]) = some [0x00000004, 0x3E4CCCCC, 0x3E4CCCCD, 0xBE6EEEF0, 0xBD888888] := by
  decide +kernel

/-- V42 drop-oldest. -/
theorem test_streamTransform_drops : reply (sendTo instA2 0x30000003 [0x3F000000, 0x3F000000, 0xBF800000, 0x3E800000, 0x3E800000, 0x00000000]) = some [0x00000004, 0xBE6EEEF0, 0xBD888888, 0x3D88888A, 0x3D08888A] := by
  decide +kernel

/-- V38. -/
theorem test_query_reserved : reply (sendTo emptyA 0x40000007 []) = some [0x12000007] := by
  decide +kernel

/-- V38. -/
theorem test_query_high_bits : reply (sendTo instA 0x40000108 []) = some [0x12000108] := by
  decide +kernel

/-- V38. -/
theorem test_queryPhase : reply (sendTo instA2 0x40000000 []) = some [0x1, 0x1] := by
  decide +kernel

/-- V38. -/
theorem test_queryErr : reply (sendTo instA2 0x40000001 []) = some [0x1, 0x0] := by
  decide +kernel

/-- V38. -/
theorem test_queryErrInfo : reply (sendTo instA2 0x40000002 []) = some [0x1, 0x0] := by
  decide +kernel

/-- V38. -/
theorem test_queryBlockSize : reply (sendTo instA2 0x40000003 []) = some [0x1, 0x2] := by
  decide +kernel

/-- V38. -/
theorem test_queryMaxChannels : reply (sendTo instA2 0x40000004 []) = some [0x1, 0x18] := by
  decide +kernel

/-- V38. -/
theorem test_queryMaxFftLen : reply (sendTo instA2 0x40000005 []) = some [0x1, 0x10000] := by
  decide +kernel

/-- V38. -/
theorem test_queryHasResampler : reply (sendTo instA2 0x40000006 []) = some [0x1, 0x0] := by
  decide +kernel

/-- V38. -/
theorem test_querySamplesRequired : reply (sendTo instA2 0x40000008 []) = some [0x1, 0x4] := by
  decide +kernel

/-- V38. -/
theorem test_querySampleLatency : reply (sendTo instA2 0x40000009 []) = some [0x1, 0x2] := by
  decide +kernel

/-- V38. -/
theorem test_querySampleRate : reply (sendTo instA2 0x4000000A []) = some [0x1, 0xBB80] := by
  decide +kernel

/-- V38. -/
theorem test_queryChannelCount : reply (sendTo instA2 0x4000000B []) = some [0x1, 0x2] := by
  decide +kernel

/-- V38. -/
theorem test_queryAvailable : reply (sendTo instA2 0x4000000C []) = some [0x1, 0x2] := by
  decide +kernel

/-- V38. -/
theorem test_queryPosition0 : reply (sendTo instA2 0x40000020 []) = some [0x1, 0x0] := by
  decide +kernel

/-- V38. -/
theorem test_queryPosition1 : reply (sendTo instA2 0x40000021 []) = some [0x1, 0x1] := by
  decide +kernel

/-- V38. -/
theorem test_queryPosition2 : reply (sendTo instA2 0x40000022 []) = some [0x12000022] := by
  decide +kernel

/-- V38 (the row of POSITION[0], here the last row). -/
theorem test_queryPosition23_empty : reply (sendTo emptyA 0x40000037 []) = some [0x13000000] := by
  decide +kernel

/-- V51. -/
theorem test_unassigned_opcode : reply (sendTo emptyA 0x7F000001 [0x00000005]) = some [0x1000007F] := by
  decide +kernel

/-- P5 line 4. -/
theorem test_backend_failure : reply (sendTo instX 0x30000002 [0x3F000000, 0x3F000000, 0xBF800000, 0x3E800000]) = some [0x05000002] := by
  decide +kernel

/-- V20: what CONSTRUCT builds. -/
theorem test_construct :
    nextSuch (fun t => decide (t.phase = .ready ∧ t.fftLen = 4 ∧ t.ir = [specFL, specFR, specFR, specFL]))
      (sendTo emptyA 0x01000001 [0x00000120, 2, 48000, 0, 0, 1, 0x3F800000, 0x3F000000]) = true := by decide +kernel

/-- V32: channel 0 on a zeroed accumulator. -/
theorem test_processChannel :
    nextSuch (fun t => decide (t.acc = ⟨[0x3E4CCCCE, 0x3ECCCCCE], [0x3DCCCCCE, 0x3E4CCCCE]⟩))
      (sendTo instA 0x21000000 [0x3E800000, 0xBF000000, 0x3F400000, 0x3FC00000]) = true := by decide +kernel

/-- V31. -/
theorem test_rawTransform :
    nextSuch (fun t => decide (t.acc = ⟨[0x3E888889, 0x3E088889], [0x3E088889, 0x3E888889]⟩))
      (sendTo instA 0x22000000 [0, 0, 0x3F800000, 0, 0, 0, 0, 0x3F800000]) = true := by decide +kernel

/-! ### Numbers -/

/-- V01. -/
theorem test_fdiv : fdiv 0x3F800000 0x40200000 = 0x3ECCCCCD#32 := by decide +kernel
theorem test_fadd : fadd 0x3DCCCCCD 0x3E4CCCCD = 0x3E99999A#32 := by decide +kernel
theorem test_fmul_inf : fmul 0x7F800000 0x40200000 = 0x7F800000#32 := by decide +kernel
theorem test_fdiv_by_inf : fdiv 0x3F800000 0x7F800000 = 0#32 := by decide +kernel
theorem test_fadd_zeros : fadd 0x00000000 0x80000000 = 0#32 := by decide +kernel
/-- V02. -/
theorem test_cmul :
    cmul ⟨0xBF000000, 0x40000000⟩ ⟨0x3E888889, 0x80000000⟩ = ⟨0xBE088889, 0x3F088889⟩ := by decide +kernel
/-- V03. -/
theorem test_ref4_fwd : ref4Fwd 0 0 0x3F800000 0 =
    [⟨0x3F800000, 0x00000000⟩, ⟨0xBF800000, 0x80000000⟩, ⟨0x3F800000, 0x00000000⟩] := by decide +kernel
theorem test_ref4_inv : ref4Inv ⟨0x41200000, 0⟩ ⟨0xC0000000, 0x40000000⟩ ⟨0xC0000000, 0⟩ =
    [0x40800000, 0x41000000, 0x41400000, 0x41800000] := by decide +kernel
/-- V04. -/
theorem test_nextPow2 :
    [1, 2, 3, 4, 5, 513, 1024, 1025, 65537].map nextPow2 = [1, 2, 4, 4, 8, 1024, 1024, 2048, 131072] := by
  decide +kernel
/-- V05. -/
theorem test_clip : [0x3F800001, 0xBF800001, 0x3F7FFFFF, 0xFF800000, 0x80000000, 0x00000001].map clip =
    [0x3F800000, 0xBF800000, 0x3F7FFFFF, 0xBF800000, 0x80000000, 0x00000001] := by decide +kernel
/-- V10. -/
theorem test_mirror : (namedPositions.map fun p => (positionCode (mirror (Config.test 2) p)).toNat) =
    [1, 0, 2, 3, 5, 4, 7, 6, 8, 10, 9, 12, 11, 13, 14, 16, 15, 17] := by decide
/-- V12. -/
theorem test_find_duplicates : find [.FL, .FR, .FL] .FL = some 0 ∧
    findMirror (Config.test 2) [.FL, .FR, .FL] .FR = some 0 := by decide
/-- V21. -/
theorem test_normalise : normalise [[0x3F000000, 0xBF800000, 0x3E800000], [0x3E800000, 0x3F000000, 0xC0000000]] 3 =
    [[0x3DB60B61, 0xBE360B61, 0x3D360B61], [0x3D360B61, 0x3DB60B61, 0xBEB60B61]] := by decide +kernel
/-- The text forms of R88: V20's packet, a sample's decimal literal (V01), a register by name, a repeated frame, a failed
MAP_FIND of V13. -/
theorem test_text_construct :
    assembleText 0 "CONSTRUCT enc=1 bits=32 src=48000 dst=0 pos=[FL,1] data=[[1.0],[#3F000000]]".toList =
      some [⟨0x01000001, [0x120, 2, 0xBB80, 0, 0, 1, 0x3F800000, 0x3F000000]⟩] := by decide +kernel
theorem test_text_sample : readSample "0.1".toList = some 0x3DCCCCCD := by decide +kernel
theorem test_text_query : assembleText 2 "QUERY r=POSITION[3]".toList = some [⟨0x40000023, []⟩] := by decide +kernel
theorem test_text_repeat : assembleText 2 "STREAM_TRANSFORM frames=[[1.0,-0.5]*2]".toList =
    some [⟨0x30000002, [0x3F800000, 0xBF000000, 0x3F800000, 0xBF000000]⟩] := by decide +kernel
theorem test_text_response : writeResponse ⟨0x12000018, []⟩ = some "-> BadOperand(0x000018)".toList := by
  decide +kernel
/-- R89: one channel per packet between ACC_ZERO and ACC_READ. -/
theorem test_text_channel_cycle : assembleText 2 "CHANNEL_CYCLE [1,0*3], [0*4]".toList =
    some [⟨0x20000000, []⟩, ⟨0x21000000, [0x3F800000, 0, 0, 0]⟩, ⟨0x21000001, [0, 0, 0, 0]⟩,
      ⟨0x23000000, []⟩] := by decide +kernel


/-! ### Witnesses: concrete states and operands that meet the hypotheses of each statement, at the ends of their ranges -/

theorem testCfg_wf : (Config.test 2).wf := by decide +kernel
theorem cfgExt_wf : cfgExt.wf := by decide +kernel

theorem instA_inv : instA.Inv := by decide +kernel
theorem instA2_inv : instA2.Inv := by decide +kernel
theorem instX_inv : instX.Inv := by decide +kernel
theorem inst0_inv : inst0.Inv := by decide +kernel
theorem emptyA_inv : emptyA.Inv :=
  ⟨testCfg_wf, powerOn_wf _, (fun h => nomatch h), fun _ => ⟨rfl, rfl, rfl, rfl⟩⟩

theorem instA_total : BkTotal instA.cfg instA.fftLen := ref4_total rfl
theorem instA_zero : BkZero instA.cfg instA.fftLen := ref4_zero rfl

theorem witness_DecodeOfEncodeIsTheInstruction :
    (Instr.query 0x38 [1]).wellFormed = true ∧ (Instr.construct 0xFFFFFF [1, 2]).wellFormed = true ∧
      (Instr.queryPosition23 []).wellFormed = true := by decide

theorem witness_EncodeOfDecodeIsThePacket : decode ⟨0x40000037, [1]⟩ = .ok (.queryPosition23 [1]) := by rfl

theorem witness_ByteSerialPacketsDecode : (Instr.streamTransform 2 [5]).wellFormed = true := by decide

theorem witness_DecoderRefusesExactlyUnassignedOpcodes :
    decode ⟨0x41000000, []⟩ = .error (.unassignedOpcode 0x41) ∧ decode ⟨0x00000000, []⟩ = .error (.unassignedOpcode 0) := by
  exact ⟨rfl, rfl⟩

theorem witness_StepRunsTheDecodedInstruction :
    ({ instA with hostIn := [.command ⟨0x23000000, []⟩, .hardReset []] } : State).hostIn =
      .command ⟨0x23000000, []⟩ :: [.hardReset []] ∧ decode ⟨0x23000000, []⟩ = .ok (.accRead 0 []) := by
  exact ⟨rfl, rfl⟩

theorem witness_UnassignedOpcodeAnswersBadOpcode :
    ({ instA with hostIn := [.command ⟨0xFF000001, [5]⟩] } : State).hostIn = .command ⟨0xFF000001, [5]⟩ :: [] ∧
      (0xFF000001#32).toNat / 2 ^ 24 ∉ [0x01, 0x02, 0x10, 0x11, 0x20, 0x21, 0x22, 0x23, 0x30, 0x40] := by
  exact ⟨rfl, by decide⟩

theorem witness_EngineWaitsAndRefusesInterleavedPackets :
    instA.hostIn = [] ∧ ({ instA with hostIn := [.interleaved [1, 2]] } : State).hostIn = .interleaved [1, 2] :: [] := by
  exact ⟨rfl, rfl⟩

theorem witness_HardwareResetClearsTheEngine :
    ({ instA2 with hostIn := [.hardReset [0x30000002, 1]] } : State).hostIn = .hardReset [0x30000002, 1] :: [] := rfl

/-- An `OK` response, an error response, and RESET. -/
theorem witness_EveryCommandSendsOneResponse :
    (∃ t, exec (.accZero 0 []) instA = .next t ∧ t.hostOut.getLast?.map Response.code = some 0) ∧
    (∃ t, exec (.accZero 1 []) instA = .next t ∧ t.hostOut.getLast?.map Response.code = some 0x12) ∧
    ∃ t, exec (.reset 0 []) instA = .next t := by
  exact ⟨⟨_, rfl, by decide⟩, ⟨_, rfl, by decide⟩, _, rfl⟩

/-- A run with a successful and a failing command. -/
theorem witness_NoFaultRecordedExactlyWhenEveryResponseWasOk :
    let s : State := { instA with hostIn := [.command ⟨0x20000000, []⟩, .command ⟨0x20000001, []⟩] }
    noErrorRecorded s ∧
      (∀ e ∈ s.hostIn, (∀ ws, e ≠ .hardReset ws) ∧ ∀ p, e = .command p → ∀ a d, decode p ≠ .ok (.reset a d)) ∧
      (∃ t, Host.Core.run Sys2Proof.core 1 s = .next t) ∧ ∃ t, Host.Core.run Sys2Proof.core 2 s = .next t := by
  refine ⟨rfl, ?_, ⟨_, rfl⟩, _, rfl⟩
  intro e he
  simp only [List.mem_cons, List.not_mem_nil, or_false] at he
  rcases he with rfl | rfl
  · refine ⟨nofun, ?_⟩
    rintro p hp a d hd
    cases hp
    cases (show decode ⟨0x20000000, []⟩ = .ok (.accZero 0 []) from rfl).symm.trans hd
  · refine ⟨nofun, ?_⟩
    rintro p hp a d hd
    cases hp
    cases (show decode ⟨0x20000001, []⟩ = .ok (.accZero 1 []) from rfl).symm.trans hd

theorem witness_CommandsInTheWrongPhaseAreRefused : emptyA.phase = .empty ∧ instA.phase = .ready := ⟨rfl, rfl⟩

/-- Each clause at the first value past its range. -/
theorem witness_BadHeaderOperandsAreRefused :
    instA.phase = .ready ∧ (1 : Arg) ≠ 0 ∧ 256 ≤ (0x100 : Arg).toNat ∧
      positionOfCode instA.cfg (18 : Arg).toNat = none ∧ instA.channelCount ≤ (2 : Arg).toNat := by
  decide

theorem witness_BadLengthsAreRefused :
    instA.phase = .ready ∧ ([0] : List Word) ≠ [] ∧ (17 : Arg).toNat < 256 ∧
      positionOfCode instA.cfg (17 : Arg).toNat = some .TRC ∧ (1 : Arg).toNat < instA.channelCount ∧
      ([1, 2, 3] : List Word).length ≠ instA.fftLen ∧
      ([] : List Word).length ≠ instA.channelCount * instA.fftLen ∧
      ([1] : List Word).length ≠ (1 : Arg).toNat * instA.channelCount ∧
      (queryRows.lookup 0x06).isSome = true ∧ (queryRows.lookup 0x0C).isSome = true ∧
      (queryRows.lookup 0x21).isSome = true ∧ (0x06 : Arg).toNat ≤ 0x06 ∧ (0x0C : Arg).toNat ≤ 0x0C ∧
      (0x21 : Arg).toNat - 0x20 < instA.channelCount := by
  refine ⟨rfl, by decide, by decide, rfl, by decide, by decide, by decide, by decide, rfl, rfl, rfl, by decide,
    by decide, by decide⟩

theorem witness_StepKeepsTheInvariant :
    instA2.Inv ∧ (∃ t, step instA2 = .next t) ∧
      ({ instA2 with hostIn := [.hardReset []] } : State).Inv ∧
      ∃ t, step { instA2 with hostIn := [.hardReset []] } = .next t :=
  ⟨instA2_inv, ⟨_, rfl⟩, instA2_inv, _, rfl⟩

theorem witness_NoStepStopsUnderTheInvariant :
    ({ instX with hostIn := [.command ⟨0x30000002, [1, 2, 3, 4]⟩] } : State).Inv ∧
      ∀ ws rest, ({ instX with hostIn := [.command ⟨0x30000002, [1, 2, 3, 4]⟩] } : State).hostIn ≠
        .interleaved ws :: rest :=
  ⟨instX_inv, nofun⟩

/-- A command that changes other state, a failing one, and a RESET with an operand. -/
theorem witness_LiveInstanceIsImmutable :
    instA.phase = .ready ∧ (∃ t, exec (.streamTransform 1 [1, 2]) instA = .next t) ∧
      (∃ t, exec (.reset 1 []) instA = .next t) ∧ Instr.reset 1 [] ≠ .reset 0 [] := by
  exact ⟨rfl, ⟨_, rfl⟩, ⟨_, rfl⟩, by decide⟩

/-- The packet of V20. -/
def packetA : List Word := [0x00000120, 2, 48000, 0, 0, 1, 0x3F800000, 0x3F000000]

theorem witness_PhaseChangesOnlyByConstructAndReset :
    (∃ t, exec (.construct 1 packetA) emptyA = .next t ∧ decide (t.phase ≠ emptyA.phase) = true) ∧
      ∃ t, exec (.reset 0 []) instA = .next t ∧ decide (t.phase ≠ instA.phase) = true := by
  exact ⟨nextSuch_spec (by decide +kernel), nextSuch_spec (by decide +kernel)⟩

theorem witness_BuffersChangeOnlyByTheirWriters :
    (∃ t, exec (.streamTransform 1 [1, 2]) instA = .next t ∧ decide (t.win ≠ instA.win) = true) ∧
      (∃ t, exec (.processChannel 1 [0, 0, 0x3F800000, 0]) instA = .next t ∧ decide (t.acc ≠ instA.acc) = true) ∧
      ∃ t, exec (.accRead 0 []) instA = .next t ∧ decide (t.acc = instA.acc) = true := by
  exact ⟨nextSuch_spec (by decide +kernel), nextSuch_spec (by decide +kernel), nextSuch_spec (by decide +kernel)⟩

theorem witness_ReadCommandsHaveNoSideEffect :
    isReadCommand (.query 7 []) = true ∧ (∃ t, exec (.query 7 []) instA = .next t) ∧
      isReadCommand (.accRead 0 []) = true ∧ ∃ t, exec (.accRead 0 []) instA = .next t := by
  exact ⟨rfl, ⟨_, rfl⟩, rfl, _, rfl⟩

theorem witness_WindowsAreFullOnlyAfterABackendFailure :
    instX.Inv ∧ (instX.phase = .ready → instX.available < instX.fftLen) ∧
      (∃ t, exec (.streamTransform 2 [0, 0, 0, 0]) instX = .next t ∧
        decide (t.phase = .ready ∧ t.available = t.fftLen ∧ t.err = 0x05) = true) ∧
      ∃ t, exec (.streamTransform 1 [0, 0]) instX = .next t ∧
        decide (t.phase = .ready ∧ t.available < t.fftLen) = true :=
  ⟨instX_inv, by decide, nextSuch_spec (by decide +kernel), nextSuch_spec (by decide +kernel)⟩

theorem witness_MirrorIsAnInvolution :
    cfgExt.wf ∧ positionAssigned cfgExt (.ext 1) = true ∧ mirror cfgExt (.ext 1) = .ext 0 :=
  ⟨cfgExt_wf, by decide, by decide⟩

/-- The last named code, an extension code, and the first code past the range. -/
theorem witness_PositionCodesFollowTheTable :
    positionOfCode cfgExt 17 = some .TRC ∧ positionOfCode cfgExt 19 = some (.ext 1) ∧
      positionOfCode cfgExt 20 = none ∧ 24 ≤ 24 := by decide

theorem witness_FindGivesTheSmallestIndex : find [.FL, .FR, .FL] .FL = some 0 ∧ find [.FL] .FR = none := by decide

theorem witness_FindMirrorRoundTripsOnPairs :
    (Config.test 2).wf ∧ positionAssigned (Config.test 2) .FL = true ∧
      ([.FL, .FC, .FR] : List Position)[0]? = some .FL ∧
      ([.FL, .FC, .FR] : List Position)[2]? = some (mirror (Config.test 2) .FL) ∧
      Position.FL ≠ mirror (Config.test 2) .FL ∧
      (∀ k : Nat, ([.FL, .FC, .FR] : List Position)[k]? = some .FL → k = 0) ∧
      ∀ k : Nat, ([.FL, .FC, .FR] : List Position)[k]? = some (mirror (Config.test 2) .FL) → k = 2 := by
  refine ⟨testCfg_wf, by decide, by decide, by decide, by decide, ?_, ?_⟩ <;>
  · intro k hk
    match k with
    | 0 => first | rfl | exact absurd hk (by decide)
    | 1 => exact absurd hk (by decide)
    | 2 => first | rfl | exact absurd hk (by decide)
    | k + 3 => exact absurd hk (by simp)

/-- A code on the map, its mirror, and a code that is neither. -/
theorem witness_LookupsAnswerTheSmallestIndex :
    instA.phase = .ready ∧ (1 : Arg).toNat < 256 ∧ positionOfCode instA.cfg (1 : Arg).toNat = some .FR ∧
      instA.map[1]? = some .FR ∧ (∀ j, j < 1 → instA.map[j]? ≠ some .FR) ∧
      instA.map[0]? = some (mirror instA.cfg .FR) ∧
      positionOfCode instA.cfg (2 : Arg).toNat = some .FC ∧ Position.FC ∉ instA.map ∧
      mirror instA.cfg .FC ∉ instA.map := by
  decide

theorem witness_ConstructBuildsTheInstance :
    let pos : List Position := [.FL, .FR]
    let data : List (List F32) := [[0x3F800000], [0x3F000000]]
    emptyA.phase = .empty ∧ data.length = pos.length ∧ (∀ row ∈ data, row.length = 1) ∧ 1 < 2 ^ 24 ∧
      pos.length ≤ 24 ∧ (∀ p ∈ pos, positionAssigned emptyA.cfg p = true) ∧ (∀ p ∈ pos, mirror emptyA.cfg p ∈ pos) ∧
      ((48000 : Word) = 0 ∨ (48000 : Word) = 48000 ∨ emptyA.cfg.hasResampler = true) ∧
      WorkingRecording 48000 48000 1 data 48000 1 data ∧ 4 = nextPow2 (1 + emptyA.cfg.blockSize + 1) ∧
      4 ≤ emptyA.cfg.maxFftLen ∧ bkPlan emptyA.cfg 4 pos.length = true ∧
      (∀ i, i < pos.length → bkFwd emptyA.cfg 4 ((normalise data 1).getD i [] ++ zeros (4 - 1)) ≠ none) ∧
      pos[1]? = some .FR ∧ pos[0]? = some (mirror emptyA.cfg .FR) := by
  refine ⟨rfl, rfl, by decide, by decide, by decide, by decide, by decide, .inr (.inl rfl), ⟨rfl, rfl, rfl⟩,
    by decide +kernel, by decide, by decide, ?_, rfl, rfl⟩
  intro i hi
  match i, hi with
  | 0, _ => exact Option.some_ne_none _
  | 1, _ => exact Option.some_ne_none _

/-- What `RESAMPLE` answers is a working recording, whatever it is: it has no body, so its number of frames, and with it
the rest of the hypotheses, is no closed fact. -/
theorem workingRecording_resampled {src dst : Word} (l : Nat) (data : List (List F32)) (h0 : dst ≠ 0) (h : dst ≠ src) :
    WorkingRecording src dst l data dst (resampled data src dst data.length).1
      (resampled data src dst data.length).2 := by
  unfold WorkingRecording
  rw [if_neg (by tauto)]
  refine ⟨rfl, rfl, by simp [resampled], ?_, ?_⟩
  · intro row hrow
    obtain ⟨c, -, rfl⟩ := List.mem_map.1 hrow
    simp [resampled]
  · intro ch t hch ht
    simp only [resampled] at ht ⊢
    simp [hch, ht]

/-- The parameters of the resampling clauses: a converter is attached. -/
def emptyR : State := State.powerOn { Config.test 2 with hasResampler := true }

/-- The resampling form, for every converter that answers one frame a channel and a backend that transforms what it
answers. -/
theorem witness_ConstructBuildsTheInstance_resampling
    (h : (resampled [[0x3F800000], [0x3F000000]] 44100 48000 2).1 = 1) :
    ((48000 : Word) ≠ 0 ∧ (48000 : Word) ≠ 44100) ∧ emptyR.phase = .empty ∧ emptyR.cfg.hasResampler = true ∧
      WorkingRecording 44100 48000 1 [[0x3F800000], [0x3F000000]] 48000 1
        (resampled [[0x3F800000], [0x3F000000]] 44100 48000 2).2 ∧
      4 = nextPow2 (1 + emptyR.cfg.blockSize + 1) ∧ bkPlan emptyR.cfg 4 2 = true ∧ BkTotal emptyR.cfg 4 := by
  refine ⟨by decide, rfl, rfl, ?_, by decide +kernel, by decide, ref4_total rfl⟩
  have hw : WorkingRecording 44100 48000 1 [[0x3F800000], [0x3F000000]] 48000
      (resampled [[0x3F800000], [0x3F000000]] 44100 48000 2).1 (resampled [[0x3F800000], [0x3F000000]] 44100 48000 2).2 :=
    workingRecording_resampled 1 [[0x3F800000], [0x3F000000]] (by decide) (by decide)
  rwa [h] at hw

theorem witness_NormalisationFollowsTheFormula :
    ([0x3F800000] : List F32)[0]? = some 0x3F800000 ∧ 0 < 1 := by decide

/-- `L + B + 1` just at and just past a power of two. -/
theorem witness_FftLenIsTheSmallestPowerOfTwo :
    1 + (Config.test 2).blockSize + 1 ≤ 2 ^ 2 ∧ 2 + (Config.test 2).blockSize + 1 ≤ 2 ^ 3 := by decide

theorem witness_ResamplingHappensExactlyWhenNeeded :
    let r : Recording := { encoding := 1, bits := 32, srcRate := 44100, dstRate := 48000, positions := [.FC], frames := 1,
                           rows := [[0x3F800000]] }
    r.dstRate ≠ 0 ∧ r.dstRate ≠ r.srcRate ∧ (Config.test 2).hasResampler = false ∧
      ({ Config.test 2 with hasResampler := true } : Config).hasResampler = true ∧
      ({ r with dstRate := 0 } : Recording).dstRate = 0 ∧
      ({ r with dstRate := 44100 } : Recording).dstRate = r.srcRate ∧ 0 < r.rows.length := by
  decide

/-- Three words; a length one too short; `FMT` at its first illegal value; the second position the first bad one. -/
theorem witness_ConstructChecksItsPacketInOrder :
    emptyA.phase = .empty ∧ ([1, 2, 3] : List Word).length < 4 ∧
      ([0, 1, 5] : List Word).length ≠ (2 : Word).toNat + (2 : Word).toNat * (1 : Arg).toNat ∧
      ([0, 18, 5, 6] : List Word).length = (2 : Word).toNat + (2 : Word).toNat * (1 : Arg).toNat ∧
      2 ^ 16 ≤ (0x10000 : Word).toNat ∧ (0xFFFF : Word).toNat < 2 ^ 16 ∧ 1 < (2 : Word).toNat ∧
      ([0, 18, 5, 6] : List Word)[1]? = some 18 ∧ positionOfCode emptyA.cfg (18 : Word).toNat = none ∧
      256 ≤ (256 : Word).toNat ∧
      ∀ j v, j < 1 → ([0, 18, 5, 6] : List Word)[j]? = some v →
        v.toNat < 256 ∧ positionOfCode emptyA.cfg v.toNat ≠ none := by
  refine ⟨rfl, by decide, by decide, by decide, by decide, by decide, by decide, rfl, by decide, by decide, ?_⟩
  intro j v hj hv
  obtain rfl : j = 0 := by omega
  cases hv
  decide

/-- The parameters of the backend-failure clause. -/
def emptyF : State := State.powerOn { Config.test 2 with backend := .ref4x 0x3E888889 }

/-- One input for each clause of the chain, and the common hypotheses for it. -/
theorem witness_ConstructStepsFailInOrder :
    emptyF.phase = .empty ∧
    (([[0x3F800000], [0x3F000000]] : List (List F32)).length = ([.FL, .FR] : List Position).length ∧
      (∀ row ∈ ([[0x3F800000], [0x3F000000]] : List (List F32)), row.length = 1) ∧ 1 < 2 ^ 24 ∧
      (∀ p ∈ ([.FL, .FR] : List Position), positionAssigned emptyF.cfg p = true) ∧
      4 = nextPow2 (1 + emptyF.cfg.blockSize + 1)) ∧
    ¬ ((0 : BitVec 8) = 1 ∧ (16 : BitVec 8) = 32) ∧ ((1 : BitVec 8) = 1 ∧ (32 : BitVec 8) = 32) ∧
    WorkingRecording 48000 0 1 [[0x3F800000], [0x3F000000]] 48000 1 [[0x3F800000], [0x3F000000]] ∧
    ((48000 : Word) ≠ 0 ∧ (48000 : Word) ≠ 44100 ∧ emptyF.cfg.hasResampler = false) ∧
    24 < (List.replicate 25 Position.FL).length ∧
    (bkPlan emptyF.cfg 8 2 = false ∧ bkPlan emptyF.cfg 4 2 = true ∧ ¬ emptyF.cfg.maxFftLen < 4) ∧
    emptyF.cfg.maxFftLen < nextPow2 (65534 + emptyF.cfg.blockSize + 1) ∧
    (([.FL, .FR, .SL] : List Position)[2]? = some .SL ∧ mirror emptyF.cfg .SL ∉ ([.FL, .FR, .SL] : List Position) ∧
      ∀ j q, j < 2 → ([.FL, .FR, .SL] : List Position)[j]? = some q →
        mirror emptyF.cfg q ∈ ([.FL, .FR, .SL] : List Position)) ∧
    ((∀ p ∈ ([.FL, .FR] : List Position), mirror emptyF.cfg p ∈ ([.FL, .FR] : List Position)) ∧
      bkFwd emptyF.cfg 4 ((normalise [[0x3F800000], [0x3F000000]] 1).getD 0 [] ++ zeros (4 - 1)) = none) := by
  refine ⟨rfl, ⟨rfl, by decide, by decide, by decide, by decide +kernel⟩, by decide, by decide, ⟨rfl, rfl, rfl⟩,
    by decide, by decide, by decide, by decide +kernel, ⟨rfl, by decide, ?_⟩, by decide, by decide +kernel⟩
  intro j q hj hq
  match j with
  | 0 => cases hq; decide
  | 1 => cases hq; decide
  | j + 2 => omega

/-- With a converter attached: too many channels, and a window longer than the test backend's, whatever it answers. -/
theorem witness_ConstructStepsFailInOrder_resampling :
    let cfg : Config := { Config.test 4 with hasResampler := true }
    let frames := (resampled [[0x3F800000]] 44100 48000 1).1
    (State.powerOn cfg).phase = .empty ∧ ¬((48000 : Word) ≠ 0 ∧ (48000 : Word) ≠ 44100 ∧ cfg.hasResampler = false) ∧
      WorkingRecording 44100 48000 1 [[0x3F800000]] 48000 frames (resampled [[0x3F800000]] 44100 48000 1).2 ∧
      24 < (List.replicate 25 Position.FL).length ∧ positionAssigned cfg .FL = true ∧
      bkPlan cfg (nextPow2 (frames + cfg.blockSize + 1)) 1 = false := by
  intro cfg frames
  refine ⟨rfl, by decide, workingRecording_resampled 1 [[0x3F800000]] (by decide) (by decide), by decide, rfl, ?_⟩
  have h := le_nextPow2 (frames + cfg.blockSize + 1)
  have hb : cfg.blockSize = 4 := rfl
  exact decide_eq_false (by omega)

theorem witness_FailedConstructLeavesNoInstance :
    emptyA.phase = .empty ∧ (∃ t, exec (.construct 1 packetA) emptyA = .next t ∧ decide (t.phase = .ready) = true) ∧
      ∃ t, exec (.construct 1 packetA) emptyF = .next t ∧ decide (t.err = 5 ∧ t.errInfo = 1) = true := by
  exact ⟨rfl, nextSuch_spec (by decide +kernel), nextSuch_spec (by decide +kernel)⟩

/-- Channel 1, the last one, with the window of V30; sample 1, the last of the block. -/
theorem witness_ProcessChannelAddsTheChannelsBlock :
    instA.Inv ∧ instA.phase = .ready ∧ (1 : Arg).toNat < 256 ∧ (1 : Arg).toNat < instA.channelCount ∧
      ([0, 0, 0, 0x3F800000] : List Word).length = instA.fftLen ∧
      instA.ir[2 * (1 : Arg).toNat]? = some specFR ∧ instA.ir[2 * (1 : Arg).toNat + 1]? = some specFL ∧
      (∃ spec pl pr yl yr, bkFwd instA.cfg instA.fftLen [0, 0, 0, 0x3F800000] = some spec ∧
        (pl.length = instA.fftLen / 2 + 1 ∧ ∀ (k : Nat) (x y : C32), spec[k]? = some x → specFR[k]? = some y →
          pl[k]? = some ⟨fsub (fmul x.re y.re) (fmul x.im y.im), fadd (fmul x.re y.im) (fmul x.im y.re)⟩) ∧
        (pr.length = instA.fftLen / 2 + 1 ∧ ∀ (k : Nat) (x y : C32), spec[k]? = some x → specFL[k]? = some y →
          pr[k]? = some ⟨fsub (fmul x.re y.re) (fmul x.im y.im), fadd (fmul x.re y.im) (fmul x.im y.re)⟩) ∧
        bkInv instA.cfg instA.fftLen pl = some yl ∧ bkInv instA.cfg instA.fftLen pr = some yr ∧
        (∃ xl, yl[instA.fftLen - instA.cfg.blockSize + 1]? = some xl) ∧
        ∃ xr, yr[instA.fftLen - instA.cfg.blockSize + 1]? = some xr) ∧
      1 < instA.cfg.blockSize ∧ instA.acc.left[1]? = some 0 ∧ instA.acc.right[1]? = some 0 := by
  have hp : ∀ {a b : List C32} {k : Nat} {x y : C32}, a[k]? = some x → b[k]? = some y →
      (List.zipWith cmul a b)[k]? =
        some ⟨fsub (fmul x.re y.re) (fmul x.im y.im), fadd (fmul x.re y.im) (fmul x.im y.re)⟩ := by
    intro a b k x y ha hb
    rw [List.getElem?_zipWith, ha, hb]
    rfl
  exact ⟨instA_inv, rfl, by decide, by decide, rfl, rfl, rfl,
    ⟨_, List.zipWith cmul _ specFR, List.zipWith cmul _ specFL, _, _, rfl, ⟨rfl, fun _ _ _ => hp⟩, ⟨rfl, fun _ _ _ => hp⟩,
      rfl, rfl, ⟨_, rfl⟩, _, rfl⟩, by decide, rfl, rfl⟩

/-- On the backend that fails on `DEADBEEF`: channel 0 ends well on any other window. -/
theorem instX_channel0_ends_well (x0 x1 x2 x3 : F32) (h : x0 ≠ 0xDEADBEEF) (stage : Word) :
    ¬ChannelFails instX 0 [x0, x1, x2, x3] stage := by
  have hf : bkFwd instX.cfg instX.fftLen [x0, x1, x2, x3] = some (ref4Fwd x0 x1 x2 x3) := if_neg h
  rintro (⟨h1, -⟩ | ⟨spec, l, r, h1, hl, hr, hi, -⟩)
  · simp [hf] at h1
  · obtain rfl := Option.some.inj (hf.symm.trans h1)
    obtain rfl := Option.some.inj hl
    obtain rfl := Option.some.inj hr
    rcases hi with hi | hi
    · exact Option.some_ne_none _ hi
    · exact Option.some_ne_none _ hi

/-- The last channel fails, alone and as the second of a RAW_TRANSFORM. No backend of the spec has an inverse transform that
fails, so stage 3 is met by the last clause: it takes a backend of which nothing is known. -/
theorem witness_ProcessChannelReportsABackendFailure :
    instX.Inv ∧ instX.phase = .ready ∧ (1 : Arg).toNat < 256 ∧ (1 : Arg).toNat < instX.channelCount ∧
      ([0xDEADBEEF, 0, 0, 0] : List Word).length = instX.fftLen ∧
      bkFwd instX.cfg instX.fftLen [0xDEADBEEF, 0, 0, 0] = none ∧
      ChannelFails instX (1 : Arg).toNat [0xDEADBEEF, 0, 0, 0] 2 ∧
      ([[1, 2, 3, 4], [0xDEADBEEF, 0, 0, 0]] : List (List F32)).length = instX.channelCount ∧
      FirstChannelFails instX [[1, 2, 3, 4], [0xDEADBEEF, 0, 0, 0]] 1 2 ∧
      ∀ (s : State) (w : List F32) (spec left right : List C32), bkFwd s.cfg s.fftLen w = some spec →
        s.ir[2 * 0]? = some left → s.ir[2 * 0 + 1]? = some right →
        bkInv s.cfg s.fftLen (List.zipWith cmul spec right) = none → ChannelFails s 0 w 3 := by
  have hx : ChannelFails instX 1 [0xDEADBEEF, 0, 0, 0] 2 := .inl ⟨by decide, rfl⟩
  refine ⟨instX_inv, rfl, by decide, by decide, rfl, by decide, hx, rfl, ⟨⟨_, rfl, hx⟩, ?_⟩, ?_⟩
  · intro j v i hj hv
    obtain rfl : j = 0 := by omega
    obtain rfl := Option.some.inj hv
    exact instX_channel0_ends_well 1 2 3 4 (by decide) i
  · exact fun s w spec left right hf hl hr hi => .inr ⟨spec, left, right, hf, hl, hr, .inr hi, rfl⟩

/-- Two channels, and none. -/
theorem witness_RawTransformIsOneProcessChannelPerChannel :
    (instA.Inv ∧ instA.phase = .ready ∧ BkTotal instA.cfg instA.fftLen ∧
      ([[1, 2, 3, 4], [5, 6, 7, 8]] : List (List F32)).length = instA.channelCount ∧
      ∀ w ∈ ([[1, 2, 3, 4], [5, 6, 7, 8]] : List (List F32)), w.length = instA.fftLen) ∧
    (inst0.Inv ∧ inst0.phase = .ready ∧ BkTotal inst0.cfg inst0.fftLen ∧
      ([] : List (List F32)).length = inst0.channelCount) :=
  ⟨⟨instA_inv, rfl, instA_total, rfl, by decide⟩, inst0_inv, rfl, ref4_total rfl, rfl⟩

theorem witness_ZeroWindowsGiveAZeroBlock :
    instA.Inv ∧ instA.phase = .ready ∧ BkTotal instA.cfg instA.fftLen ∧ BkZero instA.cfg instA.fftLen ∧
      (∀ slot ∈ instA.ir, finiteSpectrum slot) ∧
      ([[0, minusZero, 0, minusZero], [0, 0, 0, 0]] : List (List F32)).length = instA.channelCount ∧
      ∀ w ∈ ([[0, minusZero, 0, minusZero], [0, 0, 0, 0]] : List (List F32)),
        w.length = instA.fftLen ∧ ∀ v ∈ w, isZero v = true := by
  have hw : ([[0, minusZero, 0, minusZero], [0, 0, 0, 0]] : List (List F32)).all
      (fun w => decide (w.length = instA.fftLen) && w.all isZero) = true := by decide +kernel
  refine ⟨instA_inv, rfl, instA_total, instA_zero, ?_, rfl, fun w h => ?_⟩
  · unfold finiteSpectrum
    decide
  · simpa only [Bool.and_eq_true, decide_eq_true_eq, List.all_eq_true] using List.all_eq_true.1 hw w h

/-- Two states that differ in what the command does not read. -/
theorem witness_RawTransformDependsOnlyOnItsInputs :
    instA.cfg = { instA2 with err := 5 }.cfg ∧ instA.phase = { instA2 with err := 5 }.phase ∧
      instA.fftLen = { instA2 with err := 5 }.fftLen ∧ instA.channelCount = { instA2 with err := 5 }.channelCount ∧
      instA.ir = { instA2 with err := 5 }.ir ∧ instA.acc = { instA2 with err := 5 }.acc ∧
      ∃ t, exec (.rawTransform 0 [0, 0, 0x3F800000, 0, 0, 0, 0, 0x3F800000]) instA = .next t ∧
        decide (t.acc ≠ instA.acc) = true :=
  ⟨rfl, rfl, rfl, rfl, rfl, rfl, nextSuch_spec (by decide +kernel)⟩

theorem witness_AccZeroClearsTheAccumulators : instA.phase = .ready := rfl

theorem witness_AccReadAnswersBothBlocks : instA.Inv ∧ instA.phase = .ready ∧ 1 < instA.cfg.blockSize :=
  ⟨instA_inv, rfl, by decide⟩

/-- One frame short of full; and no frames at all. -/
theorem witness_FillPhaseAbsorbsSilently :
    instA.Inv ∧ instA.phase = .ready ∧
      ([1, 2, 3, 4, 5, 6] : List Word).length = (3 : Arg).toNat * instA.channelCount ∧
      instA.available + (3 : Arg).toNat < instA.fftLen ∧
      ([] : List Word).length = (0 : Arg).toNat * instA.channelCount :=
  ⟨instA_inv, rfl, rfl, by decide, rfl⟩

/-- Just full, and the longest chunk onto windows that hold two frames. -/
theorem witness_FullWindowsProduceOneBlock :
    instA2.Inv ∧ instA2.phase = .ready ∧
      ([1, 2, 3, 4] : List Word).length = (2 : Arg).toNat * instA2.channelCount ∧
      instA2.fftLen ≤ instA2.available + (2 : Arg).toNat ∧
      ([1, 2, 3, 4, 5, 6, 7, 8] : List Word).length = (4 : Arg).toNat * instA2.channelCount ∧
      (4 : Arg).toNat ≤ instA2.fftLen ∧ BkTotal instA2.cfg instA2.fftLen :=
  ⟨instA2_inv, rfl, rfl, by decide, rfl, by decide, ref4_total rfl⟩

theorem witness_SteadyStateIsOneBlockInOneBlockOut :
    instA2.Inv ∧ instA2.phase = .ready ∧ BkTotal instA2.cfg instA2.fftLen ∧
      (2 : Arg).toNat = instA2.cfg.blockSize ∧
      ([1, 2, 3, 4] : List Word).length = (2 : Arg).toNat * instA2.channelCount ∧
      instA2.available = instA2.fftLen - instA2.cfg.blockSize ∧ (∃ w, instA2.win[1]? = some w) :=
  ⟨instA2_inv, rfl, ref4_total rfl, rfl, rfl, rfl, _, rfl⟩

theorem witness_StreamingBackendFailureKeepsTheChunk :
    instX.Inv ∧ instX.phase = .ready ∧
      ([1, 2, 3, 4] : List Word).length = (2 : Arg).toNat * instX.channelCount ∧ (2 : Arg).toNat ≤ instX.fftLen ∧
      instX.fftLen ≤ instX.available + (2 : Arg).toNat ∧
      FirstChannelFails instX (windowsAfter instX (2 : Arg).toNat [1, 2, 3, 4]) 0 2 :=
  ⟨instX_inv, rfl, rfl, by decide, by decide,
    ⟨[0xDEADBEEF, 0, 1, 3], by decide, .inl ⟨by decide, rfl⟩⟩, fun _ _ _ h => absurd h (by omega)⟩

/-- The same with the failing window in the last channel. -/
theorem witness_StreamingBackendFailureKeepsTheChunk_later :
    let s : State := { instX with win := instX.win.reverse }
    s.Inv ∧ s.phase = .ready ∧ s.fftLen ≤ s.available + (2 : Arg).toNat ∧
      FirstChannelFails s (windowsAfter s (2 : Arg).toNat [1, 2, 3, 4]) 1 2 := by
  intro s
  refine ⟨by decide +kernel, rfl, by decide, ⟨[0xDEADBEEF, 0, 2, 4], by decide, .inl ⟨by decide, rfl⟩⟩, ?_⟩
  intro j v i hj hv
  obtain rfl : j = 0 := by omega
  obtain rfl := Option.some.inj hv
  exact instX_channel0_ends_well _ _ _ _ (by decide) i

theorem witness_OversizedChunkIsRefused :
    instA.phase = .ready ∧ (List.replicate 10 (0 : Word)).length = (5 : Arg).toNat * instA.channelCount ∧
      instA.fftLen < (5 : Arg).toNat := by decide

/-- V40 call 2; a value at each end of the range. -/
theorem witness_StreamingOutputIsClamped :
    (∃ t, exec (.streamTransform 2 [0x3F000000, 0x3F000000, 0xBF800000, 0x3E800000]) instA2 = .next t ∧
      decide (t.hostOut = instA2.hostOut ++
        [⟨0x00000004, [0x3E4CCCCC, 0x3E4CCCCD, 0xBE6EEEF0, 0xBD888888]⟩]) = true) ∧
    (isFinite plusOne = true ∧ |exactValue plusOne| ≤ 1) ∧ (isFinite minusOne = true ∧ |exactValue minusOne| ≤ 1) ∧
    (isFinite 0x3F800001 = true ∧ 1 < exactValue 0x3F800001) ∧
    (isFinite 0xBF800001 = true ∧ exactValue 0xBF800001 < -1) ∧ isNaN 0x7FC00000 = true := by
  have h1 : exactValue plusOne = 1 := by decide +kernel
  have h2 : exactValue minusOne = -1 := by decide +kernel
  refine ⟨nextSuch_spec (by decide +kernel), ⟨by decide, by simp [h1]⟩, ⟨by decide, by simp [h2]⟩,
    ⟨by decide, by decide +kernel⟩, ⟨by decide, by decide +kernel⟩, by decide⟩

/-- The first two chunks of V40, and an empty chunk. -/
def chunksA : List (List (List F32)) :=
  [[[0x3F800000, 0], [0, 0x3F800000]], [], [[0x3F000000, 0x3F000000], [0xBF800000, 0x3E800000]]]

theorem witness_ChunkingDoesNotChangeTheStream :
    instA.Inv ∧ instA.phase = .ready ∧ instA.available < instA.fftLen ∧ BkTotal instA.cfg instA.fftLen ∧
      streamFits instA chunksA := by
  refine ⟨instA_inv, rfl, by decide, instA_total, by decide, by decide, by decide, ?_⟩
  intro t ht
  have e1 : exec (assemble (.streamTransform [[0x3F800000, 0], [0, 0x3F800000]])) instA =
      .next (answered instA2 []) := by rfl
  obtain rfl := Host.Outcome.next.inj (e1.symm.trans ht)
  refine ⟨by decide, by decide, by decide, ?_⟩
  intro t ht
  have e2 : exec (assemble (.streamTransform [])) (answered instA2 []) =
      .next (answered (answered instA2 []) []) := by rfl
  obtain rfl := Host.Outcome.next.inj (e2.symm.trans ht)
  exact ⟨by decide, by decide, by decide, fun _ _ => trivial⟩

theorem witness_NoOutputBeforeTheWindowsAreFull :
    instA.Inv ∧ instA.phase = .ready ∧ instA.available = 0 ∧
      streamFits instA [[[0x3F800000, 0], [0, 0x3F800000]], [[0, 0]]] ∧
      ([[[0x3F800000, 0], [0, 0x3F800000]], [[0, 0]]] : List (List (List F32))).flatten.length < instA.fftLen := by
  refine ⟨instA_inv, rfl, rfl, ⟨by decide, by decide, by decide, ?_⟩, by decide⟩
  intro t ht
  have e1 : exec (assemble (.streamTransform [[0x3F800000, 0], [0, 0x3F800000]])) instA =
      .next (answered instA2 []) := by rfl
  obtain rfl := Host.Outcome.next.inj (e1.symm.trans ht)
  exact ⟨by decide, by decide, by decide, fun _ _ => trivial⟩

theorem witness_QueryOfFilterRegistersNeedsAnInstance : instA.phase = .ready ∧ emptyA.phase = .empty := ⟨rfl, rfl⟩

/-- The last channel, the first place past it, and the last row. -/
theorem witness_QueryOfPositionsAnswersTheMap :
    instA.phase = .ready ∧ 1 < instA.channelCount ∧ instA.map[1]? = some .FR ∧ instA.channelCount ≤ 2 ∧
      instA.channelCount ≤ 23 ∧ emptyA.phase = .empty := by decide

/-- The last register of each group, and reserved numbers beside them. -/
theorem witness_QueryAgreesWithItsRegisterRows :
    (∃ row, queryRows.lookup 0x06 = some row) ∧ queryRows.lookup 0x07 = none ∧ queryRows.lookup 0x38 = none ∧
      (0x06 : Arg).toNat ≤ 0x06 ∧ instA.phase = .ready ∧ 0x08 ≤ (0x0C : Arg).toNat ∧ (0x0C : Arg).toNat ≤ 0x0C ∧
      0x20 ≤ (0x21 : Arg).toNat ∧ (0x21 : Arg).toNat ≤ 0x37 ∧ (0x21 : Arg).toNat - 0x20 < instA.channelCount ∧
      instA.map[(0x21 : Arg).toNat - 0x20]? = some .FR :=
  ⟨⟨_, rfl⟩, rfl, rfl, by decide, rfl, by decide, by decide, by decide, by decide, by decide, rfl⟩

theorem witness_ArithmeticRoundsOnceToNearestEven :
    isFinite 0x3DCCCCCD = true ∧ isFinite 0x7F7FFFFF = true ∧ isZero 0x7F7FFFFF = false := by decide

theorem witness_ArithmeticSpecialCases :
    isFinite plusOne = true ∧ isZero plusOne = false ∧ isZero minusZero = true ∧ isInf 0xFF800000 = true ∧
      isInf 0x7F800000 = true ∧ signBit 0xFF800000 ≠ signBit 0x7F800000 ∧ isNaN 0x7FC00000 = true ∧
      isNaN (fsub plusOne plusTwo) = false ∧ isNaN (fmul minusZero plusOne) = false ∧
      isNaN (fdiv plusOne 0xFF800000) = false ∧ isNaN plusOne = false := by decide +kernel

theorem witness_ScalingByInvNIsDivisionByN :
    1 ≤ 1 ∧ 1 ≤ 31 ∧ 31 ≤ 31 ∧ isNaN 0x00000001 = false ∧ isNaN 0x7F800000 = false := by decide

end Sys2Proof.Tests
end

section
/-! SUPPORT. What a command can do, once: it checks, it changes the state, and it answers (30_encoding R85, 46_system
R241). Each later invariant is a case split over the ways a command fails and the ways it ends well. -/

namespace Sys2Proof.Machine

/-- What a command leaves of the state when it fails with `e`, before the error is latched and answered (R253). -/
inductive Fails (s : State) : Instr → CoreError → State → Prop
  /-- a check refuses the command (R85, R151) -/
  | refused {i e} : Fails s i e s
  /-- a step of CONSTRUCT fails after the recording has been through the scratch buffer (R161) -/
  | construct {l d e} (hp : s.phase = .empty) : Fails s (.construct l d) e s.loseScratch
  /-- the backend fails in PROCESS_CHANNEL (R181) -/
  | processChannel {a d st} (hp : s.phase = .ready) :
      Fails s (.processChannel a d) (.transformBackendFailure st) s.loseAcc.loseScratch
  /-- the backend fails in RAW_TRANSFORM (R181) -/
  | rawTransform {a d st} (hp : s.phase = .ready) :
      Fails s (.rawTransform a d) (.transformBackendFailure st) s.loseAcc.loseScratch
  /-- the backend fails on the full windows of a STREAM_TRANSFORM, which keeps them (R221) -/
  | streamTransform {n d st} (hp : s.phase = .ready) (hn : n.toNat ≤ s.fftLen)
      (hfull : s.fftLen ≤ (absorb n.toNat d s).available) :
      Fails s (.streamTransform n d) (.transformBackendFailure st) (absorb n.toNat d s).loseAcc.loseScratch

/-- What a command leaves of the state when it ends well, before it answers `OK` with its payload (R81). -/
inductive Succeeds (s : State) : Instr → List Word → State → Prop
  /-- a lookup, ACC_READ or a QUERY (R55) -/
  | read {i w} (hi : isReadCommand i = true) : Succeeds s i w s
  | reset : Succeeds s (.reset 0 []) [] s.clear
  | construct {l d r b} (hp : s.phase = .empty) (hr : decodeRecording s.cfg l.toNat d = .ok r)
      (hb : buildInstance s.cfg r = .ok b) : Succeeds s (.construct l d) [] (s.commit b)
  | accZero (hp : s.phase = .ready) : Succeeds s (.accZero 0 []) [] (s.setAcc (Acc.zeroed s.cfg.blockSize))
  | processChannel {a d acc} (hp : s.phase = .ready) (h : processChannel s (argLow a) d s.acc = .ok acc) :
      Succeeds s (.processChannel a d) [] (s.setAcc acc).loseScratch
  | rawTransform {d acc} (hp : s.phase = .ready)
      (h : processChannels s 0 (rawWindows s.channelCount s.fftLen d) s.acc = .ok acc) :
      Succeeds s (.rawTransform 0 d) [] (s.setAcc acc).loseScratchIfUsed
  /-- STREAM_TRANSFORM while the windows are not full (R218) -/
  | fill {n d} (hp : s.phase = .ready) (hn : n.toNat ≤ s.fftLen) (hlt : (absorb n.toNat d s).available < s.fftLen) :
      Succeeds s (.streamTransform n d) [] (absorb n.toNat d s)
  /-- STREAM_TRANSFORM that produces a block and slides the windows by `B` (R219, R220) -/
  | block {n d ws acc} (hp : s.phase = .ready) (hn : n.toNat ≤ s.fftLen)
      (hfull : s.fftLen ≤ (absorb n.toNat d s).available)
      (hws : readWindows (absorb n.toNat d s) s.channelCount 0 = some ws)
      (h : processChannels (absorb n.toNat d s) 0 ws (Acc.zeroed s.cfg.blockSize) = .ok acc) :
      Succeeds s (.streamTransform n d) (interleave acc.clipped.left acc.clipped.right)
        ((((absorb n.toNat d s).setAcc acc.clipped).loseScratchIfUsed).dropFront s.cfg.blockSize)

/-- How a command ends in a next state: an error response, or an `OK` response, on the state that it leaves. -/
inductive Ends (i : Instr) (s : State) : State → Prop
  | failed {e u} (h : Fails s i e u) :
      Ends i s { u with err := errorCode e, errInfo := errorInfo e, hostOut := u.hostOut ++ [errorResponse e] }
  | done {w u} (h : Succeeds s i w u) : Ends i s { u with hostOut := u.hostOut ++ [okResponse w] }

section
variable {i : Instr} {s t u : State}

theorem ends_of_raiseError {e : CoreError} (h : raiseError e u = .next t) (hf : Fails s i e u) : Ends i s t := by
  obtain rfl := raiseError_next.1 h
  exact .failed hf

theorem ends_of_respond {w : List Word} (h : respond w u = .next t) (hd : Succeeds s i w u) : Ends i s t := by
  obtain rfl := respond_next.1 h
  exact .done hd

/-- A check either refuses the command or hands on to the rest of its rule. -/
theorem ends_of_require {c : Bool} {e : CoreError} {k : Result} (h : require c e s k = .next t)
    (hk : c = true → k = .next t → Ends i s t) : Ends i s t := by
  rcases require_next h with ⟨-, h⟩ | ⟨hc, h⟩
  · exact ends_of_raiseError h .refused
  · exact hk hc h

/-- When the engine stops a command that then answers, the backend has failed (R181). -/
theorem engineStopped_next {x : EngineStop} (h : engineStopped x u = .next t) :
    ∃ st, raiseError (.transformBackendFailure st) u.loseAcc.loseScratch = .next t := by
  cases x with
  | backend st => exact ⟨st, h⟩
  | noSuchElement space => cases h

/-- A QUERY of a register answers an error or the register's value and leaves the state (R198). -/
theorem ends_of_queryRegister {r : StatusReg} {d : List Word} (hi : isReadCommand i = true)
    (h : queryRegister r d s = .next t) : Ends i s t := by
  obtain ⟨e, h⟩ | ⟨w, -, -, h, -⟩ := queryRegister_next h
  · exact ends_of_raiseError h .refused
  · exact ends_of_respond h (.read hi)

end

section
variable {a : Arg} {d : List Word} {s t : State}

theorem execConstruct_ends (h : execConstruct a d s = .next t) : Ends (.construct a d) s t := by
  refine ends_of_require h fun hp h => ?_
  simp only [decide_eq_true_eq] at hp
  cases hr : decodeRecording s.cfg a.toNat d with
  | error e => exact ends_of_raiseError (by simpa only [hr] using h) .refused
  | ok r =>
    simp only [hr] at h
    cases hb : buildInstance s.cfg r with
    | error e => exact ends_of_raiseError (by simpa only [hb] using h) (.construct hp)
    | ok b => exact ends_of_respond (by simpa only [hb] using h) (.construct hp hr hb)

theorem execReset_ends (h : execReset a d s = .next t) : Ends (.reset a d) s t := by
  refine ends_of_require h fun ha h => ends_of_require h fun hd hk => ?_
  obtain rfl : a = 0 := of_decide_eq_true ha
  obtain rfl : d = [] := List.length_eq_zero_iff.1 (of_decide_eq_true hd)
  exact ends_of_respond hk .reset

theorem execMapFind_ends (h : execMapFind a d s = .next t) : Ends (.mapFind a d) s t := by
  refine ends_of_require h fun _ h => ?_
  split at h
  · exact ends_of_raiseError h .refused
  · exact ends_of_require h fun _ h => ends_of_respond h (.read rfl)

theorem execMapFindMirror_ends (h : execMapFindMirror a d s = .next t) : Ends (.mapFindMirror a d) s t := by
  refine ends_of_require h fun _ h => ?_
  split at h
  · exact ends_of_raiseError h .refused
  · exact ends_of_require h fun _ h => ends_of_respond h (.read rfl)

theorem execAccZero_ends (h : execAccZero a d s = .next t) : Ends (.accZero a d) s t := by
  refine ends_of_require h fun hp h => ends_of_require h fun ha h => ends_of_require h fun hd hk => ?_
  obtain rfl : a = 0 := of_decide_eq_true ha
  obtain rfl : d = [] := List.length_eq_zero_iff.1 (of_decide_eq_true hd)
  exact ends_of_respond hk (.accZero (of_decide_eq_true hp))

theorem execProcessChannel_ends (h : execProcessChannel a d s = .next t) : Ends (.processChannel a d) s t := by
  refine ends_of_require h fun hp h => ends_of_require h fun _ h => ends_of_require h fun _ h => ?_
  split at h
  · obtain ⟨st, h⟩ := engineStopped_next h
    exact ends_of_raiseError h (.processChannel (of_decide_eq_true hp))
  · exact ends_of_respond h (.processChannel (of_decide_eq_true hp) ‹_›)

theorem execRawTransform_ends (h : execRawTransform a d s = .next t) : Ends (.rawTransform a d) s t := by
  refine ends_of_require h fun hp h => ends_of_require h fun ha h => ends_of_require h fun _ hk => ?_
  obtain rfl : a = 0 := of_decide_eq_true ha
  split at hk
  · obtain ⟨st, h⟩ := engineStopped_next hk
    exact ends_of_raiseError h (.rawTransform (of_decide_eq_true hp))
  · exact ends_of_respond hk (.rawTransform (of_decide_eq_true hp) ‹_›)

theorem execAccRead_ends (h : execAccRead a d s = .next t) : Ends (.accRead a d) s t := by
  refine ends_of_require h fun _ h => ends_of_require h fun _ h => ends_of_require h fun _ h => ?_
  split at h
  · exact ends_of_respond h (.read rfl)
  · cases h

end

section
variable (n : Nat) (d : List Word) (s : State)

@[simp] theorem absorb_cfg : (absorb n d s).cfg = s.cfg := by simp [absorb]
@[simp] theorem absorb_phase : (absorb n d s).phase = s.phase := by simp [absorb]
@[simp] theorem absorb_fftLen : (absorb n d s).fftLen = s.fftLen := by simp [absorb]
@[simp] theorem absorb_channelCount : (absorb n d s).channelCount = s.channelCount := by simp [absorb]
@[simp] theorem absorb_err : (absorb n d s).err = s.err := by unfold absorb makeRoom; split <;> rfl
@[simp] theorem absorb_errInfo : (absorb n d s).errInfo = s.errInfo := by unfold absorb makeRoom; split <;> rfl
@[simp] theorem absorb_sampleRate : (absorb n d s).sampleRate = s.sampleRate := by
  unfold absorb makeRoom; split <;> rfl
@[simp] theorem absorb_map : (absorb n d s).map = s.map := by unfold absorb makeRoom; split <;> rfl
@[simp] theorem absorb_ir : (absorb n d s).ir = s.ir := by unfold absorb makeRoom; split <;> rfl
@[simp] theorem absorb_hostIn : (absorb n d s).hostIn = s.hostIn := by unfold absorb makeRoom; split <;> rfl
@[simp] theorem absorb_hostOut : (absorb n d s).hostOut = s.hostOut := by unfold absorb makeRoom; split <;> rfl

end

section
variable {i : Instr} {a : Arg} {d : List Word} {s t : State}

theorem execStreamTransform_ends (h : execStreamTransform a d s = .next t) : Ends (.streamTransform a d) s t := by
  refine ends_of_require h fun hp h => ends_of_require h fun _ h => ends_of_require h fun hn h => ?_
  replace hp := of_decide_eq_true hp
  replace hn := of_decide_eq_true hn
  unfold produceBlock at h
  simp only [absorb_fftLen, absorb_cfg, absorb_channelCount] at h
  split at h
  · exact ends_of_respond h (.fill hp hn ‹_›)
  have hfull := Nat.le_of_not_lt ‹_›
  split at h
  · cases h
  split at h
  · obtain ⟨st, h⟩ := engineStopped_next h
    exact ends_of_raiseError h (.streamTransform hp hn hfull)
  · exact ends_of_respond h (.block hp hn hfull ‹_› ‹_›)

theorem execQuery_ends (h : execQuery a d s = .next t) : Ends (.query a d) s t := by
  unfold execQuery at h
  split at h
  · exact ends_of_raiseError h .refused
  · exact ends_of_queryRegister rfl h

/-- A command that answers a next state has failed, or it has ended well. The register rows of QUERY are one case. -/
theorem exec_ends (h : exec i s = .next t) : Ends i s t := by
  cases i with
  | construct => exact execConstruct_ends h
  | reset => exact execReset_ends h
  | mapFind => exact execMapFind_ends h
  | mapFindMirror => exact execMapFindMirror_ends h
  | accZero => exact execAccZero_ends h
  | processChannel => exact execProcessChannel_ends h
  | rawTransform => exact execRawTransform_ends h
  | accRead => exact execAccRead_ends h
  | streamTransform => exact execStreamTransform_ends h
  | query => exact execQuery_ends h
  | _ => unfold exec at h; exact ends_of_queryRegister rfl h

end
end Sys2Proof.Machine
end

section
/-! SUPPORT. What the ways to end leave unchanged, and how they keep the invariant (10_state R34, R57). -/

namespace Sys2Proof.Machine

/-- `t` has the filter of `s`: `PHASE`, the FilterState, `MAP` and `IR` (R25, R27, R28). -/
abbrev SameFilter (s t : State) : Prop :=
  t.phase = s.phase ∧ t.fftLen = s.fftLen ∧ t.sampleRate = s.sampleRate ∧ t.channelCount = s.channelCount ∧
    t.map = s.map ∧ t.ir = s.ir

/-- `t` has the parameters of `s` and its ports hold what those of `s` do (R21, R70). -/
abbrev SamePorts (s t : State) : Prop := t.cfg = s.cfg ∧ t.hostIn = s.hostIn ∧ t.hostOut = s.hostOut

/-- The error latch of `t` holds what that of `s` does (R24). -/
abbrev SameLatch (s t : State) : Prop := t.err = s.err ∧ t.errInfo = s.errInfo

section
variable {i : Instr} {e : CoreError} {w : List Word} {s t u : State}

theorem Fails.sameFilter (h : Fails s i e u) : SameFilter s u := by cases h <;> simp [SameFilter]

theorem Fails.samePorts (h : Fails s i e u) : SamePorts s u := by cases h <;> simp [SamePorts]

theorem Succeeds.samePorts (h : Succeeds s i w u) : SamePorts s u := by cases h <;> simp [SamePorts]

/-- Of the commands that end well only RESET changes the error latch (R24). -/
theorem Succeeds.sameLatch (h : Succeeds s i w u) (hi : i ≠ .reset 0 []) : SameLatch s u := by
  cases h
  case reset => exact absurd rfl hi
  all_goals simp [SameLatch]

/-- Of the commands that end well only RESET, and CONSTRUCT in phase EMPTY, change the filter (R57). -/
theorem Succeeds.sameFilter (h : Succeeds s i w u) (hr : i ≠ .reset 0 [])
    (hc : s.phase = .ready ∨ ∀ l d, i ≠ .construct l d) : SameFilter s u := by
  cases h
  case reset => exact absurd rfl hr
  case construct hp _ _ =>
    rcases hc with hc | hc
    · simp [hp] at hc
    · exact absurd rfl (hc _ _)
  all_goals simp [SameFilter]

end

/-! ### The invariant -/

section
variable {s t : State}

/-- A live filter stays live and well-formed when only its buffers change, and they keep their form. -/
theorem State.Inv.of_sameFilter (hs : s.Inv) (hp : s.phase = .ready) (hc : t.cfg = s.cfg) (hi : SameFilter s t)
    (hm : Memory.wf t) : t.Inv := by
  obtain ⟨hcfg, -, hready, -⟩ := hs
  obtain ⟨hphase, hN, -, hC, hmap, -⟩ := hi
  refine ⟨hc ▸ hcfg, hm, fun _ => ?_, fun he => ?_⟩
  · rw [filterWf, hN, hc, hC, hmap]
    exact hready hp
  · rw [hphase, hp] at he
    cases he

theorem State.Inv.loseScratch (hs : s.Inv) : s.loseScratch.Inv := hs

theorem State.Inv.clear (hs : s.Inv) : s.clear.Inv :=
  ⟨hs.1, clear_wf s, fun h => (nomatch h), fun _ => ⟨rfl, rfl, rfl, rfl⟩⟩

/-- A power of two by its logarithm, the form in which the invariant says it (R34 a). -/
theorem nextPow2_log2 (m : Nat) : 2 ^ Nat.log2 (nextPow2 m) = nextPow2 m := by
  obtain ⟨e, he⟩ := nextPow2_isPow m
  rw [he, Nat.log2_two_pow]

/-- What CONSTRUCT has built has room for a block and one frame more (R155). -/
theorem buildInstance_blockSize_lt {c : Config} {r : Recording} {b : Built} (h : buildInstance c r = .ok b) :
    c.blockSize < b.fftLen := by
  obtain ⟨frames, hN, -⟩ := buildInstance_ok h
  have := le_nextPow2 (frames + c.blockSize + 1)
  rw [hN, planFftLen]
  omega

/-- What CONSTRUCT commits satisfies the invariant, whatever was there before (R160, R34). -/
theorem State.Inv.commit {l : Nat} {d : List Word} {r : Recording} {b : Built} (hs : s.Inv)
    (hr : decodeRecording s.cfg l d = .ok r) (hb : buildInstance s.cfg r = .ok b) : (s.commit b).Inv := by
  have hB := buildInstance_blockSize_lt hb
  obtain ⟨frames, hN, hmap, hC, hmax, hir, hslot⟩ := buildInstance_ok hb
  refine ⟨hs.1, ?_, fun _ => ⟨?_, hB, hmax, hC, ?_⟩, fun h => (nomatch h)⟩
  · simpa [Memory.wf, hir] using hslot
  · rw [State.commit_fftLen, hN]
    exact nextPow2_log2 _
  · rw [State.commit_map, State.commit_cfg, hmap]
    exact decodeRecording_assigned hr

theorem zeroed_fits (b : Nat) : (Acc.zeroed b).Fits b := ⟨zeros_length b, zeros_length b⟩

variable {i : Instr}

/-- A command that fails leaves the invariant: the buffers it has written keep their form (R181, R221). -/
theorem Fails.inv {e : CoreError} {u : State} (h : Fails s i e u) (hs : s.Inv) : u.Inv := by
  have hi := h.sameFilter
  obtain ⟨hc, -⟩ := h.samePorts
  have hm : Memory.wf s := hs.2.1
  cases h with
  | refused => exact hs
  | construct => exact hs.loseScratch
  | processChannel hp => exact hs.of_sameFilter hp hc hi (loseScratch_wf (loseAcc_wf hm))
  | rawTransform hp => exact hs.of_sameFilter hp hc hi (loseScratch_wf (loseAcc_wf hm))
  | streamTransform hp hn =>
    exact hs.of_sameFilter hp hc hi (loseScratch_wf (loseAcc_wf (absorb_wf hm hn)))

/-- A command that ends well leaves the invariant. -/
theorem Succeeds.inv {w : List Word} {u : State} (h : Succeeds s i w u) (hs : s.Inv) : u.Inv := by
  obtain ⟨hc, -⟩ := h.samePorts
  have hi := h.sameFilter
  have hm : Memory.wf s := hs.2.1
  have hacc : s.acc.Fits s.cfg.blockSize := ⟨hm.1, hm.2.1⟩
  cases h with
  | read => exact hs
  | reset => exact hs.clear
  | construct _ hr hb => exact hs.commit hr hb
  | accZero hp => exact hs.of_sameFilter hp hc (hi (by simp) (.inl hp)) (setAcc_wf hm (zeroed_fits _))
  | processChannel hp h =>
    exact hs.of_sameFilter hp hc (hi (by simp) (.inl hp)) (loseScratch_wf (setAcc_wf hm (processChannel_fits h)))
  | rawTransform hp h =>
    exact hs.of_sameFilter hp hc (hi (by simp) (.inl hp))
      (loseScratchIfUsed_wf (setAcc_wf hm (processChannels_fits h hacc)))
  | fill hp hn => exact hs.of_sameFilter hp hc (hi (by simp) (.inl hp)) (absorb_wf hm hn)
  | @block n d _ _ hp hn _ _ h =>
    have hfits := processChannels_fits h (by simpa using zeroed_fits s.cfg.blockSize)
    exact hs.of_sameFilter hp hc (hi (by simp) (.inl hp))
      (dropFront_wf (loseScratchIfUsed_wf (setAcc_wf (absorb_wf hm hn) (clipped_fits hfits))))

theorem Ends.inv (h : Ends i s t) (hs : s.Inv) : t.Inv := by
  cases h with
  | failed hf => exact hf.inv hs
  | done hd => exact hd.inv hs

/-! ### The fill cursor -/

/-- A chunk never fills the windows past `N` (R217, R34 c). -/
theorem absorb_available_le {n : Nat} {d : List Word} (hn : n ≤ s.fftLen) :
    (absorb n d s).available ≤ s.fftLen := by
  rw [absorb, State.appendFrames_available, makeRoom_available n s hn]
  omega

/-- A command that fails leaves the fill cursor, unless the backend failed on full windows (R221). -/
theorem Fails.available {e : CoreError} {u : State} (h : Fails s i e u) :
    u.available = s.available ∨
      ((∃ n d, i = .streamTransform n d) ∧ u.available = u.fftLen ∧ errorCode e = 0x05) := by
  cases h with
  | streamTransform _ hn hfull =>
    right
    refine ⟨⟨_, _, rfl⟩, ?_, rfl⟩
    simpa using Nat.le_antisymm (absorb_available_le hn) hfull
  | _ => exact .inl rfl

/-- A command that ends well leaves room in the windows of a live filter that had some (R34 e). -/
theorem Succeeds.available_lt {w : List Word} {u : State} (h : Succeeds s i w u) (hs : s.Inv)
    (hlt : s.phase = .ready → s.available < s.fftLen) (hu : u.phase = .ready) : u.available < u.fftLen := by
  cases h with
  | read => exact hlt hu
  | reset => cases hu
  | construct _ _ hb => exact Nat.zero_lt_of_lt (buildInstance_blockSize_lt hb)
  | accZero hp => exact hlt hp
  | processChannel hp => exact hlt hp
  | rawTransform hp => simpa using hlt hp
  | fill _ _ hroom => simpa using hroom
  | @block n d _ _ hp hn hfull =>
    obtain ⟨⟨hB, -⟩, -, hready, -⟩ := hs
    obtain ⟨-, hN, -⟩ := hready hp
    have hle := absorb_available_le (d := d) hn
    simp only [State.dropFront_available, State.dropFront_fftLen, State.loseScratchIfUsed_available,
      State.loseScratchIfUsed_fftLen, State.setAcc_available, State.setAcc_fftLen, absorb_fftLen]
    omega

/-! ### The parameters -/

/-- The default parameters meet the constraints of R7. -/
theorem defaultConfig_wf : Config.default.wf :=
  ⟨by decide, by decide, by decide, by decide, by decide +kernel, fun k m h => by cases h⟩

/-! ### The command loop -/

/-- What a step that answers a next state has done with the next host event (R241, R280, R265). -/
inductive Steps (s : State) : State → Prop
  | waits (h : s.hostIn = []) : Steps s s
  | hardReset {ws rest} (h : s.hostIn = .hardReset ws :: rest) : Steps s (s.takeEvent rest).clear
  | command {p rest i t} (h : s.hostIn = .command p :: rest) (hd : decode p = .ok i)
      (he : Ends i (s.takeEvent rest) t) : Steps s t
  | badOpcode {p rest t} (h : s.hostIn = .command p :: rest)
      (he : raiseError (.badOpcode (headerOpc p.header)) (s.takeEvent rest) = .next t) : Steps s t

theorem step_steps (h : step s = .next t) : Steps s t := by
  unfold step at h
  split at h
  · cases h; exact .waits ‹_›
  · cases h; exact .hardReset ‹_›
  · cases h
  · split at h
    · exact .command ‹_› ‹_› (exec_ends h)
    · exact .badOpcode ‹_› h

end
end Sys2Proof.Machine
end

section
/-! SUPPORT. The account of responses and recorded faults along a run that takes no reset (10_state R24, R298 b). -/

namespace Sys2Proof.Machine

/-- None of the events resets the engine: neither a hardware reset nor a RESET packet, however it is formed. -/
def TakesNoReset (events : List HostEvent) : Prop :=
  ∀ e ∈ events, (∀ ws, e ≠ .hardReset ws) ∧ ∀ p, e = .command p → ∀ a d, decode p ≠ .ok (.reset a d)

/-- From `s` to `t` the engine has sent some responses, and a fault is recorded in `t` exactly when one was recorded
in `s` or one of them is an error. -/
def FaultsAccounted (s t : State) : Prop :=
  ∃ rs, t.hostOut = s.hostOut ++ rs ∧ (noErrorRecorded t ↔ noErrorRecorded s ∧ ∀ r ∈ rs, r.code = 0)

variable {s t u : State}

theorem FaultsAccounted.refl (s : State) : FaultsAccounted s s := ⟨[], by simp⟩

theorem FaultsAccounted.trans (h : FaultsAccounted s t) (h' : FaultsAccounted t u) : FaultsAccounted s u := by
  obtain ⟨rs, hout, herr⟩ := h
  obtain ⟨rs', hout', herr'⟩ := h'
  refine ⟨rs ++ rs', by rw [hout', hout, List.append_assoc], ?_⟩
  rw [herr', herr, and_assoc, List.forall_mem_append]

/-- An error response records the fault that it reports. -/
theorem faultsAccounted_error {e : CoreError} (ht : t.err = errorCode e)
    (hout : t.hostOut = s.hostOut ++ [errorResponse e]) : FaultsAccounted s t :=
  ⟨_, hout, by simpa [noErrorRecorded, ht] using fun h => absurd h (errorCode_ne_zero e)⟩

/-- An `OK` response that leaves the latch alone reports none. -/
theorem faultsAccounted_ok {w : List Word} (ht : t.err = s.err)
    (hout : t.hostOut = s.hostOut ++ [okResponse w]) : FaultsAccounted s t :=
  ⟨_, hout, by simp [noErrorRecorded, ht]⟩

theorem Ends.faultsAccounted {i : Instr} (h : Ends i s t) (hi : i ≠ .reset 0 []) :
    FaultsAccounted s t ∧ t.hostIn = s.hostIn := by
  cases h with
  | failed h =>
    obtain ⟨-, hin, hout⟩ := h.samePorts
    exact ⟨faultsAccounted_error rfl (congrArg (· ++ [_]) hout), hin⟩
  | done h =>
    obtain ⟨-, hin, hout⟩ := h.samePorts
    exact ⟨faultsAccounted_ok (h.sameLatch hi).1 (congrArg (· ++ [_]) hout), hin⟩

/-- A step that takes no reset keeps the account, and leaves no reset to be taken. -/
theorem step_faultsAccounted (h : step s = .next t) (hs : TakesNoReset s.hostIn) :
    FaultsAccounted s t ∧ TakesNoReset t.hostIn := by
  cases step_steps h with
  | waits => exact ⟨.refl s, hs⟩
  | hardReset hin =>
    rw [hin] at hs
    obtain ⟨⟨hr, -⟩, -⟩ := List.forall_mem_cons.1 hs
    exact absurd rfl (hr _)
  | command hin hd he =>
    rw [hin] at hs
    obtain ⟨⟨-, hp⟩, hrest⟩ := List.forall_mem_cons.1 hs
    obtain ⟨hacc, hin'⟩ := he.faultsAccounted fun hi => hp _ rfl _ _ (hi ▸ hd)
    exact ⟨hacc, hin' ▸ hrest⟩
  | badOpcode hin he =>
    rw [hin] at hs
    obtain ⟨-, hrest⟩ := List.forall_mem_cons.1 hs
    obtain rfl := raiseError_next.1 he
    exact ⟨faultsAccounted_error rfl rfl, hrest⟩

/-- A run of `k + 1` steps that is not stopped is a step and a run of `k` steps. -/
theorem run_succ_next {M : Host.Core} {k : Nat} {s t : M.State} (h : M.run (k + 1) s = .next t) :
    ∃ u, M.step s = .next u ∧ M.run k u = .next t := by
  unfold Host.Core.run at h
  split at h
  · exact ⟨_, ‹_›, h⟩
  · cases h
  · cases h

theorem run_faultsAccounted : ∀ {k : Nat} {s : State}, Host.Core.run core k s = .next t →
    TakesNoReset s.hostIn → FaultsAccounted s t
  | 0, _, h, _ => by cases h; exact .refl _
  | _ + 1, _, h, hs => by
    obtain ⟨u, hstep, hrun⟩ := run_succ_next h
    obtain ⟨hacc, hu⟩ := step_faultsAccounted hstep hs
    exact hacc.trans (run_faultsAccounted hrun hu)

end Sys2Proof.Machine
end

section
/-! CERTIFICATES. The statements about the state: reset, the invariant, the live filter, the error latch. -/

namespace Sys2Proof.Machine

/-- Settles O15: with no fault recorded at the start, the account of the run is the responses alone. -/
theorem noFaultRecordedExactlyWhenEveryResponseWasOk : Obligations.NoFaultRecordedExactlyWhenEveryResponseWasOk := by
  intro k s t hs hin hrun
  obtain ⟨rs, hout, herr⟩ := run_faultsAccounted hrun hin
  rw [herr, hout, List.drop_left, and_iff_right hs]

/-- Settles O20, by the ways in which a step and a command can end. -/
theorem stepKeepsTheInvariant : Obligations.StepKeepsTheInvariant := by
  intro s t hs h
  cases step_steps h with
  | waits => exact hs
  | hardReset => exact State.Inv.clear hs
  | command _ _ he => exact he.inv hs
  | badOpcode _ he =>
    obtain rfl := raiseError_next.1 he
    exact hs

/-- Settles O22: a live filter refuses CONSTRUCT, and no other command but RESET writes it. -/
theorem liveInstanceIsImmutable : Obligations.LiveInstanceIsImmutable := by
  intro i s t h hp hi
  have hsame : SameFilter s t := by
    cases exec_ends h with
    | failed hf => exact hf.sameFilter
    | done hd => exact hd.sameFilter hi (.inl hp)
  exact ⟨hsame.1.trans hp, hsame.2⟩

/-- Settles O23: a command that fails keeps `PHASE`, and so does every other command that ends well. -/
theorem phaseChangesOnlyByConstructAndReset : Obligations.PhaseChangesOnlyByConstructAndReset := by
  intro i s t h hne
  cases exec_ends h with
  | failed hf => exact absurd hf.sameFilter.1 hne
  | done hd =>
    have hsame := hd.sameFilter
    cases hd with
    | construct => exact .inl ⟨⟨_, _, rfl⟩, rfl, rfl, rfl⟩
    | reset => exact .inr ⟨rfl, rfl⟩
    | read => exact absurd rfl hne
    | _ => exact absurd (hsame (by simp) (.inr (by simp))).1 hne

/-- Settles O26: a command other than STREAM_TRANSFORM fills no window, and a STREAM_TRANSFORM that ends well either
does not fill them or slides them by `B`. -/
theorem windowsAreFullOnlyAfterABackendFailure : Obligations.WindowsAreFullOnlyAfterABackendFailure := by
  intro i s t hs hlt h hp
  cases exec_ends h with
  | failed hf =>
    obtain ⟨hphase, hfft, -⟩ := hf.sameFilter
    rcases hf.available with hsame | ⟨hi, hfull, he⟩
    · have hroom := hlt (hphase.symm.trans hp)
      exact .inl (by simp only [hsame, hfft, hroom])
    · exact .inr ⟨hi, hfull, he⟩
  | done hd => exact .inl (hd.available_lt hs hlt hp)

/-- Settles O9: the defaults of R7 and the values of R35. -/
theorem resetStateHoldsTheStatedValues : Obligations.ResetStateHoldsTheStatedValues :=
  ⟨rfl, rfl, rfl, rfl, rfl, rfl, rfl⟩

/-- Settles O19: the default parameters meet R7, and in phase EMPTY there is no filter. -/
theorem resetStateSatisfiesTheInvariant : Obligations.ResetStateSatisfiesTheInvariant :=
  ⟨defaultConfig_wf, reset_wf, fun h => (nomatch h), fun _ => ⟨rfl, rfl, rfl, rfl⟩⟩

end Sys2Proof.Machine
end

section
/-! SUPPORT. The decoder gives back every well-formed instruction from its packet (30_encoding R71, R74, R26). -/

namespace Sys2Proof

/-- A header of an opcode row decodes to the row's instruction (R74). -/
theorem decode_of_opcodeRow {o : BitVec 8} {row : Arg → List Word → Instr} (hq : o ≠ queryOpc)
    (ho : opcodeRows.lookup o = some row) (a : Arg) (d : List Word) : decode ⟨mkHeader o a, d⟩ = .ok (row a d) := by
  rw [decode, headerOpc_mkHeader, headerArg_mkHeader, if_neg hq, ho]

/-- A QUERY header decodes by its register (R26). -/
theorem decode_query_header (a : Arg) (d : List Word) :
    decode ⟨mkHeader queryOpc a, d⟩ = .ok (decodeQuery a d) := by
  rw [decode, headerOpc_mkHeader, headerArg_mkHeader, if_pos rfl]

/-- A QUERY header that no register row fixes is QUERY itself (R74). -/
theorem decodeQuery_of_not_namesRegister {a : Arg} (h : a.namesRegister = false) (d : List Word) :
    decodeQuery a d = .query a d := by
  rw [decodeQuery, queryRows_lookup_eq_none.2 h]

/-- The nine opcode rows, QUERY itself, and the register rows of QUERY. -/
theorem decode_encode {i : Instr} (h : i.wellFormed = true) : decode (encode i) = .ok i := by
  cases i with
  | construct | reset | mapFind | mapFindMirror | accZero | processChannel | rawTransform | accRead
  | streamTransform => exact decode_of_opcodeRow (by decide) rfl _ _
  | query a d =>
    have ha : a.namesRegister = false := by simpa [Instr.wellFormed] using h
    exact (decode_query_header a d).trans (congrArg _ (decodeQuery_of_not_namesRegister ha d))
  | _ => exact decode_query_header _ _

/-- A packet's bytes are decoded as the packet (R52, R70). -/
theorem decodeBytes_words (p : Packet) : decodeBytes (p.words.flatMap bytesOfWord) = decode p := by
  simp only [decodeBytes, wordsOfBytes_flatMap, packetOfWords_words]

/-- The bytes of a word, least significant first, are its digits to the base 2^8 (R52). -/
theorem bytesOfWord_toNat (w : Word) :
    (bytesOfWord w).map BitVec.toNat =
      [w.toNat % 256, w.toNat / 2 ^ 8 % 256, w.toNat / 2 ^ 16 % 256, w.toNat / 2 ^ 24] := by
  have hw := w.isLt
  have htop : w.toNat / 2 ^ 24 < 256 := by omega
  simpa [bytesOfWord, BitVec.extractLsb'_toNat, Nat.shiftRight_eq_div_pow] using htop

end Sys2Proof
end

section
/-! SUPPORT. What is left of the buffers by the commands that do not write them (20_memory R50, R55). -/

namespace Sys2Proof.Machine

/-- `WIN` and `AVAILABLE` of `t` are those of `s` (R29). -/
abbrev SameWindows (s t : State) : Prop := t.win = s.win ∧ t.available = s.available

section
variable {i : Instr} {e : CoreError} {w : List Word} {s t u : State}

/-- Of the commands that fail only STREAM_TRANSFORM changes the windows (R221). -/
theorem Fails.sameWindows (h : Fails s i e u) (hs : ∀ n d, i ≠ .streamTransform n d) : SameWindows s u := by
  cases h with
  | streamTransform => exact absurd rfl (hs _ _)
  | _ => exact ⟨rfl, rfl⟩

/-- Of the commands that end well only CONSTRUCT, RESET and STREAM_TRANSFORM change the windows (R50). -/
theorem Succeeds.sameWindows (h : Succeeds s i w u) (hc : ∀ l d, i ≠ .construct l d) (hr : i ≠ .reset 0 [])
    (hs : ∀ n d, i ≠ .streamTransform n d) : SameWindows s u := by
  cases h with
  | construct => exact absurd rfl (hc _ _)
  | reset => exact absurd rfl hr
  | fill | block => exact absurd rfl (hs _ _)
  | read | accZero | processChannel | rawTransform => simp [SameWindows]

/-- Of the commands that fail only the three that run the engine lose `ACC` (R181). -/
theorem Fails.acc (h : Fails s i e u) (hs : ∀ n d, i ≠ .streamTransform n d)
    (hp : ∀ a d, i ≠ .processChannel a d) (ht : ∀ a d, i ≠ .rawTransform a d) : u.acc = s.acc := by
  cases h with
  | streamTransform => exact absurd rfl (hs _ _)
  | processChannel => exact absurd rfl (hp _ _)
  | rawTransform => exact absurd rfl (ht _ _)
  | refused | construct => rfl

/-- A command that ends well and is no writer of `ACC` leaves it (R50). -/
theorem Succeeds.acc (h : Succeeds s i w u) (hc : ∀ l d, i ≠ .construct l d) (hr : i ≠ .reset 0 [])
    (hs : ∀ n d, i ≠ .streamTransform n d) (hp : ∀ a d, i ≠ .processChannel a d)
    (ht : ∀ a d, i ≠ .rawTransform a d) (hz : i ≠ .accZero 0 []) : u.acc = s.acc := by
  cases h with
  | construct => exact absurd rfl (hc _ _)
  | reset => exact absurd rfl hr
  | fill | block => exact absurd rfl (hs _ _)
  | processChannel => exact absurd rfl (hp _ _)
  | rawTransform => exact absurd rfl (ht _ _)
  | accZero => exact absurd rfl hz
  | read => rfl

/-- A reading command that fails leaves the state to the error it takes (R55). -/
theorem Fails.eq_of_read (h : Fails s i e u) (hi : isReadCommand i = true) : u = s := by
  cases h with
  | refused => rfl
  | construct | processChannel | rawTransform | streamTransform => cases hi

/-- A reading command that ends well leaves the state to its answer (R55). -/
theorem Succeeds.eq_of_read (h : Succeeds s i w u) (hi : isReadCommand i = true) : u = s := by
  cases h with
  | read => rfl
  | reset | construct | accZero | processChannel | rawTransform | fill | block => cases hi

end
end Sys2Proof.Machine
end

section
/-! SUPPORT. Progress: under the invariant every element that a command reads is there (20_memory R53), so that the
command answers the host. -/

namespace Sys2Proof.Machine

/-- The machine goes on: neither a fault nor a refusal. -/
def Answers (r : Result) : Prop := ∃ t, r = .next t

theorem answers_respond (w : List Word) (s : State) : Answers (respond w s) := ⟨_, respond_eq w s⟩

theorem answers_raiseError (e : CoreError) (s : State) : Answers (raiseError e s) := ⟨_, raiseError_eq e s⟩

/-- A checked rule answers when what follows the check does. -/
theorem answers_require {c : Bool} {e : CoreError} {s : State} {k : Result} (hk : c = true → Answers k) :
    Answers (require c e s k) := by
  cases c with
  | false => exact answers_raiseError e s
  | true => exact hk rfl

theorem answers_engineStopped {x : EngineStop} (hx : x.isBackend = true) (s : State) :
    Answers (engineStopped x s) := by
  cases x with
  | backend st => exact answers_raiseError _ _
  | noSuchElement space => cases hx

section
variable {s : State}

theorem State.Inv.memory (hs : s.Inv) : Memory.wf s := hs.2.1

theorem State.Inv.acc_fits (hs : s.Inv) : s.acc.Fits s.cfg.blockSize := ⟨hs.memory.1, hs.memory.2.1⟩

/-- A block fits into the window of a live filter (R34 a). -/
theorem State.Inv.blockSize_le (hs : s.Inv) (hp : s.phase = .ready) : s.cfg.blockSize ≤ s.fftLen := by
  obtain ⟨-, -, hready, -⟩ := hs
  obtain ⟨-, hB, -⟩ := hready hp
  omega

/-- A register that is present can be read (R198, R204): `MAP` has one entry a channel. -/
theorem readRegister_of_present {r : StatusReg} (hm : Memory.wf s) (hr : registerPresent s r = true) :
    ∃ w, readRegister s r = some w := by
  obtain ⟨-, -, hmap, -⟩ := hm
  cases r with
  | position k =>
    have hk : k.val < s.map.length := hmap ▸ of_decide_eq_true hr
    exact ⟨_, by rw [readRegister, List.getElem?_eq_getElem hk]; rfl⟩
  | _ => exact ⟨_, rfl⟩

theorem queryRegister_answers (hm : Memory.wf s) (r : StatusReg) (d : List Word) :
    Answers (queryRegister r d s) := by
  refine answers_require fun _ => answers_require fun hr => answers_require fun _ => ?_
  obtain ⟨w, hw⟩ := readRegister_of_present hm hr
  rw [hw]
  exact answers_respond _ _

/-- The windows of a live filter that are not short of a frame are read whole (R219). -/
theorem readWindows_of_full (hm : Memory.wf s) (hfull : s.fftLen ≤ s.available) :
    readWindows s s.channelCount 0 = some s.win := by
  obtain ⟨-, -, -, -, -, hle, hlen, hwin⟩ := hm
  exact readWindows_full (fun w hw => (hwin w hw).trans (le_antisymm hle hfull)) _ _ (by omega)

/-- Steps 2 and 3 of STREAM_TRANSFORM find every sample they read (R218 to R221). -/
theorem produceBlock_answers (hm : Memory.wf s) (hB : s.cfg.blockSize ≤ s.fftLen) : Answers (produceBlock s) := by
  unfold produceBlock
  split
  · exact answers_respond _ _
  rename_i hfull
  rw [readWindows_of_full hm (Nat.le_of_not_lt hfull)]
  have ⟨_, _, _, _, _, _, hlen, _⟩ := hm
  obtain ⟨acc, hacc, -⟩ | ⟨x, hx, hb⟩ :=
    processChannels_cases hm hB s.win 0 _ (by omega) (zeroed_fits s.cfg.blockSize)
  · simp only [hacc]
    exact answers_respond _ _
  · simp only [hx]
    exact answers_engineStopped hb _

variable (a : Arg) (d : List Word)

theorem execConstruct_answers (s : State) : Answers (execConstruct a d s) := by
  refine answers_require fun _ => ?_
  split
  · exact answers_raiseError _ _
  · split
    · exact answers_raiseError _ _
    · exact answers_respond _ _

theorem execReset_answers (s : State) : Answers (execReset a d s) :=
  answers_require fun _ => answers_require fun _ => answers_respond _ _

theorem execMapFind_answers (s : State) : Answers (execMapFind a d s) := by
  refine answers_require fun _ => ?_
  split
  · exact answers_raiseError _ _
  · exact answers_require fun _ => answers_respond _ _

theorem execMapFindMirror_answers (s : State) : Answers (execMapFindMirror a d s) := by
  refine answers_require fun _ => ?_
  split
  · exact answers_raiseError _ _
  · exact answers_require fun _ => answers_respond _ _

theorem execAccZero_answers (s : State) : Answers (execAccZero a d s) :=
  answers_require fun _ => answers_require fun _ => answers_require fun _ => answers_respond _ _

theorem execProcessChannel_answers (hs : s.Inv) : Answers (execProcessChannel a d s) := by
  refine answers_require fun hp => answers_require fun ha => answers_require fun _ => ?_
  have hB := hs.blockSize_le (of_decide_eq_true hp)
  have hch : argLow a < s.channelCount := of_decide_eq_true (Bool.and_eq_true_iff.1 ha).2
  obtain ⟨acc, hacc⟩ | ⟨x, hx, hb⟩ := processChannel_cases (w := d) hs.memory hB hch hs.acc_fits
  · rw [hacc]
    exact answers_respond _ _
  · rw [hx]
    exact answers_engineStopped hb _

theorem execRawTransform_answers (hs : s.Inv) : Answers (execRawTransform a d s) := by
  refine answers_require fun hp => answers_require fun _ => answers_require fun _ => ?_
  have hB := hs.blockSize_le (of_decide_eq_true hp)
  obtain ⟨acc, hacc, -⟩ | ⟨x, hx, hb⟩ :=
    processChannels_cases hs.memory hB (rawWindows s.channelCount s.fftLen d) 0 s.acc (by simp) hs.acc_fits
  · rw [hacc]
    exact answers_respond _ _
  · rw [hx]
    exact answers_engineStopped hb _

theorem execAccRead_answers (hs : s.Inv) : Answers (execAccRead a d s) := by
  refine answers_require fun _ => answers_require fun _ => answers_require fun _ => ?_
  obtain ⟨hl, hr⟩ := hs.acc_fits
  rw [memRead_of_le (by omega), memRead_of_le (by omega)]
  exact answers_respond _ _

theorem execStreamTransform_answers (hs : s.Inv) : Answers (execStreamTransform a d s) := by
  refine answers_require fun hp => answers_require fun _ => answers_require fun hn => ?_
  refine produceBlock_answers (absorb_wf hs.memory (of_decide_eq_true hn)) ?_
  simpa using hs.blockSize_le (of_decide_eq_true hp)

theorem execQuery_answers (hm : Memory.wf s) : Answers (execQuery a d s) := by
  unfold execQuery
  split
  · exact answers_raiseError _ _
  · exact queryRegister_answers hm _ _

/-- No command reads an element that does not exist (R53). The register rows of QUERY are one case. -/
theorem exec_answers (hs : s.Inv) (i : Instr) : Answers (exec i s) := by
  cases i with
  | construct => exact execConstruct_answers _ _ s
  | reset => exact execReset_answers _ _ s
  | mapFind => exact execMapFind_answers _ _ s
  | mapFindMirror => exact execMapFindMirror_answers _ _ s
  | accZero => exact execAccZero_answers _ _ s
  | processChannel => exact execProcessChannel_answers _ _ hs
  | rawTransform => exact execRawTransform_answers _ _ hs
  | accRead => exact execAccRead_answers _ _ hs
  | streamTransform => exact execStreamTransform_answers _ _ hs
  | query => exact execQuery_answers _ _ hs.memory
  | _ => unfold exec; exact queryRegister_answers hs.memory _ _

end

theorem State.Inv.takeEvent {s : State} (hs : s.Inv) (rest : List HostEvent) : (s.takeEvent rest).Inv := hs

end Sys2Proof.Machine
end

section
/-! CERTIFICATES. The statements about the memory: bytes of a packet, progress, who writes which buffer (20_memory R50,
R52, R53, R55). -/

namespace Sys2Proof.Machine

/-- Settles O21: of the host's events only interleaved packets are refused, and under the invariant no command
faults. -/
theorem noStepStopsUnderTheInvariant : Obligations.NoStepStopsUnderTheInvariant := by
  intro s hs hin
  unfold step
  split
  · exact ⟨_, rfl⟩
  · exact ⟨_, rfl⟩
  · exact absurd ‹_› (hin _ _)
  · split
    · exact exec_answers (hs.takeEvent _) _
    · exact answers_raiseError _ _

/-- Settles O3: the bytes make the packet again, and the packet decodes to its instruction. -/
theorem byteSerialPacketsDecode : Obligations.ByteSerialPacketsDecode :=
  ⟨bytesOfWord_toNat, fun i hi => (decodeBytes_words (encode i)).trans (decode_encode hi)⟩

/-- Settles O24, by the ways in which a command fails and ends well. -/
theorem buffersChangeOnlyByTheirWriters : Obligations.BuffersChangeOnlyByTheirWriters := by
  intro i s t h hc hr
  cases exec_ends h with
  | failed hf =>
    obtain ⟨-, -, -, -, hmap, hir⟩ := hf.sameFilter
    refine ⟨hmap, hir, fun hs => ?_⟩
    obtain ⟨hwin, havailable⟩ := hf.sameWindows hs
    exact ⟨hwin, havailable, fun hp ht _ => hf.acc hs hp ht⟩
  | done hd =>
    obtain ⟨-, -, -, -, hmap, hir⟩ := hd.sameFilter hr (.inr hc)
    refine ⟨hmap, hir, fun hs => ?_⟩
    obtain ⟨hwin, havailable⟩ := hd.sameWindows hc hr hs
    exact ⟨hwin, havailable, fun hp ht hz => hd.acc hc hr hs hp ht hz⟩

/-- Settles O25: a reading command leaves the state to its answer, whether it fails or ends well. -/
theorem readCommandsHaveNoSideEffect : Obligations.ReadCommandsHaveNoSideEffect := by
  intro i s t hi h
  cases exec_ends h with
  | failed hf =>
    obtain rfl := hf.eq_of_read hi
    rfl
  | done hd =>
    obtain rfl := hd.eq_of_read hi
    rfl

end Sys2Proof.Machine
end

section
/-! SUPPORT. What decodes comes from one packet only, and which packets do not decode (30_encoding R71, R74, R26). -/

namespace Sys2Proof

/-- The instruction of an opcode row is encoded with the row's opcode and its own operand and payload (R74). -/
theorem encode_of_mem_opcodeRows (a : Arg) (d : List Word) :
    ∀ row ∈ opcodeRows, encode (row.2 a d) = ⟨mkHeader row.1 a, d⟩ ∧ (row.2 a d).wellFormed = true := by
  simp [opcodeRows, encode, Instr.wellFormed]

/-- The instruction of a register row is encoded as a QUERY of the row's register (R26). -/
theorem encode_of_mem_queryRows (d : List Word) :
    ∀ row ∈ queryRows, encode (row.2 d) = ⟨mkHeader queryOpc row.1, d⟩ ∧ (row.2 d).wellFormed = true := by
  simp [queryRows, queryOpc, encode, Instr.wellFormed]

/-- A QUERY header is encoded back, whether or not a register row fixes it (R26, R74). -/
theorem encode_decodeQuery (a : Arg) (d : List Word) :
    encode (decodeQuery a d) = ⟨mkHeader queryOpc a, d⟩ ∧ (decodeQuery a d).wellFormed = true := by
  cases ha : queryRows.lookup a with
  | some row =>
    rw [decodeQuery, ha]
    exact encode_of_mem_queryRows d _ (mem_of_lookup ha)
  | none =>
    have hname := queryRows_lookup_eq_none.1 ha
    rw [decodeQuery_of_not_namesRegister hname]
    exact ⟨rfl, by simp [Instr.wellFormed, hname]⟩

/-- A packet decodes as a QUERY, or by the row of its opcode. -/
theorem decode_eq_ok {p : Packet} {i : Instr} (h : decode p = .ok i) :
    (headerOpc p.header = queryOpc ∧ i = decodeQuery (headerArg p.header) p.payload) ∨
      ∃ row, opcodeRows.lookup (headerOpc p.header) = some row ∧ i = row (headerArg p.header) p.payload := by
  unfold decode at h
  split at h
  · exact .inl ⟨‹_›, (Except.ok.inj h).symm⟩
  · split at h
    · exact .inr ⟨_, ‹_›, (Except.ok.inj h).symm⟩
    · cases h

/-- A packet is refused exactly when it is no QUERY and no row has its opcode. -/
theorem decode_eq_error {p : Packet} {e : DecodeError} :
    decode p = .error e ↔
      (headerOpc p.header ≠ queryOpc ∧ opcodeRows.lookup (headerOpc p.header) = none) ∧
        e = .unassignedOpcode (headerOpc p.header) := by
  unfold decode
  split
  · simp [*]
  · split
    · simp [*]
    · simpa [*] using eq_comm

/-- The opcodes of R74 are that of QUERY and those of the nine rows. -/
theorem unassigned_iff (o : BitVec 8) :
    (o ≠ queryOpc ∧ opcodeRows.lookup o = none) ↔
      o.toNat ∉ [0x01, 0x02, 0x10, 0x11, 0x20, 0x21, 0x22, 0x23, 0x30, 0x40] := by
  simp [queryOpc, opcodeRows, List.lookup_eq_none_iff, ← BitVec.toNat_inj]
  tauto

end Sys2Proof
end

section
/-! SUPPORT. What a check that fails answers, and which register each row of the QUERY table reads (30_encoding R85). -/

namespace Sys2Proof.Machine

variable {s : State} {e : CoreError} {k : Result}

/-- A check that holds hands on to the rest of its rule. -/
theorem require_of_true {c : Bool} {r : Result} (h : c = true) (hk : k = r) : require c e s k = r := by
  rw [h, require_true, hk]

/-- A check that fails answers its error, and nothing else changes (R253). -/
theorem require_of_false {c : Bool} (h : c = false) :
    require c e s k = .next (failedWith s (errorCode e) (errorInfo e)) := by
  rw [h]
  rfl

/-- A check of a payload's length refuses every other length with the one it asks for (R85, R266). -/
theorem require_length_of_ne {d : List Word} {n : Nat} (h : d.length ≠ n) :
    require (decide (d.length = n)) (.badLength n) s k = .next (failedWith s 0x11 (BitVec.ofNat 32 n)) :=
  require_of_false (decide_eq_false h)

/-- The position operand is refused when `ARG[23:8]` is not zero or the code is unassigned (R80). -/
theorem positionOperand_eq_none {c : Config} {a : Arg} (h : 256 ≤ a.toNat ∨ positionOfCode c a.toNat = none) :
    positionOperand c a = none := by
  by_cases ha : a.toNat < 256
  · rw [positionOperand_of_lt ha]
    exact h.resolve_left (by omega)
  · exact positionOperand_of_le (by omega)

section
variable {a : Arg} {d : List Word}

theorem exec_mapFind_of_no_position (hp : s.phase = .ready) (ha : positionOperand s.cfg a = none) :
    exec (.mapFind a d) s = .next (failedWith s 0x12 (a.setWidth 32)) := by
  refine require_of_true (decide_eq_true hp) ?_
  rw [ha]
  rfl

theorem exec_mapFindMirror_of_no_position (hp : s.phase = .ready) (ha : positionOperand s.cfg a = none) :
    exec (.mapFindMirror a d) s = .next (failedWith s 0x12 (a.setWidth 32)) := by
  refine require_of_true (decide_eq_true hp) ?_
  rw [ha]
  rfl

theorem exec_mapFind_of_length {p : Position} (hp : s.phase = .ready) (ha : positionOperand s.cfg a = some p)
    (hd : d.length ≠ 0) : exec (.mapFind a d) s = .next (failedWith s 0x11 0) := by
  refine require_of_true (decide_eq_true hp) ?_
  rw [ha]
  exact require_length_of_ne hd

theorem exec_mapFindMirror_of_length {p : Position} (hp : s.phase = .ready) (ha : positionOperand s.cfg a = some p)
    (hd : d.length ≠ 0) : exec (.mapFindMirror a d) s = .next (failedWith s 0x11 0) := by
  refine require_of_true (decide_eq_true hp) ?_
  rw [ha]
  exact require_length_of_ne hd

/-- A readable register refuses every payload (R198). -/
theorem queryRegister_of_length {r : StatusReg} (hp : registerAnyPhase r = true ∨ s.phase = .ready)
    (hr : registerPresent s r = true) (hd : d.length ≠ 0) :
    queryRegister r d s = .next (failedWith s 0x11 0) := by
  have hphase : (registerAnyPhase r || decide (s.phase = .ready)) = true := by simpa using hp
  exact require_of_true hphase (require_of_true hr (require_length_of_ne hd))

end

/-- Each register row of the table is a QUERY of the register whose number it has (R26, R198). -/
theorem exec_of_mem_queryRows :
    ∀ row ∈ queryRows, ∃ r, registerOfNumber row.1.toNat = some r ∧ registerNumber r = row.1.toNat ∧
      ∀ d s, exec (row.2 d) s = queryRegister r d s := by
  simp only [queryRows, List.forall_mem_cons]
  and_intros
  on_goal 37 => exact List.forall_mem_nil _
  all_goals exact ⟨_, rfl, rfl, fun _ _ => rfl⟩

/-- The registers up to 0x0C, and the positions of the channels that there are, are present (R198). -/
theorem registerPresent_of_number {r : StatusReg}
    (h : registerNumber r ≤ 0x0C ∨ registerNumber r - 0x20 < s.channelCount) : registerPresent s r = true := by
  cases r with
  | position i =>
    simp only [registerNumber] at h
    exact decide_eq_true (by omega)
  | _ => rfl

/-- The registers 0x00 to 0x06 are readable in any phase (R26). -/
theorem readable_of_engineRegister {r : StatusReg} (h : registerNumber r ≤ 0x06) :
    registerAnyPhase r = true ∧ registerPresent s r = true :=
  ⟨decide_eq_true (by omega), registerPresent_of_number (.inl (by omega))⟩

end Sys2Proof.Machine
end

section
/-! SUPPORT. What the latch holds after a command, and the information words as numbers (10_state R24, 60_exceptions R252). -/

namespace Sys2Proof.Machine

/-- The word of two fields, the high one first, is a number in base `2^m`. -/
theorem append_toNat {n m : Nat} (x : BitVec n) (y : BitVec m) : (x ++ y).toNat = x.toNat * 2 ^ m + y.toNat := by
  rw [BitVec.toNat_append, ← Nat.shiftLeft_add_eq_or_of_lt y.isLt, Nat.shiftLeft_eq]

/-- A byte as an information word is zero-extended (R252). -/
theorem byteWord_toNat (b : BitVec 8) : (b.setWidth 32).toNat = b.toNat :=
  BitVec.toNat_setWidth_of_le (by decide)

/-- The information word of `UnsupportedFormat` holds the encoding above the number of bits (R252, R260). -/
theorem errorInfo_unsupportedFormat_toNat (enc bits : BitVec 8) :
    (errorInfo (.unsupportedFormat enc bits)).toNat = enc.toNat * 256 + bits.toNat := by
  have henc : (0#16 ++ enc).toNat = enc.toNat := by rw [append_toNat]; simp
  exact (append_toNat (0#16 ++ enc) bits).trans (by omega)

/-- The error latch after a command that ends well: as before, or cleared by RESET (R24, R240). -/
theorem Succeeds.latch {i : Instr} {w : List Word} {s u : State} (h : Succeeds s i w u) :
    SameLatch s u ∨ (i = .reset 0 [] ∧ u.err = 0 ∧ u.errInfo = 0) := by
  have hsame := h.sameLatch
  cases h with
  | reset => exact .inr ⟨rfl, rfl, rfl⟩
  | read => exact .inl ⟨rfl, rfl⟩
  | _ => exact .inl (hsame nofun)

end Sys2Proof.Machine
end

section
/-! CERTIFICATES. The statements about the encoding: packets and instructions, responses, the checks of a packet
(30_encoding R70 to R87). -/

namespace Sys2Proof.Machine

/-- Settles O1: the decoder reads each row of the table back. -/
theorem decodeOfEncodeIsTheInstruction : Obligations.DecodeOfEncodeIsTheInstruction :=
  fun _ h => decode_encode h

/-- Settles O2: the row that a packet decodes by encodes its two header fields, and these make the header. -/
theorem encodeOfDecodeIsThePacket : Obligations.EncodeOfDecodeIsThePacket := by
  intro p i h
  obtain ⟨ho, rfl⟩ | ⟨row, ho, rfl⟩ := decode_eq_ok h
  · have hq := encode_decodeQuery (headerArg p.header) p.payload
    rwa [← ho, mkHeader_fields] at hq
  · have hr := encode_of_mem_opcodeRows (headerArg p.header) p.payload _ (mem_of_lookup ho)
    rwa [mkHeader_fields] at hr

/-- Settles O14, by the ways in which a command fails and ends well. -/
theorem everyCommandSendsOneResponse : Obligations.EveryCommandSendsOneResponse := by
  intro i s t h
  cases exec_ends h with
  | @failed e u hf =>
    obtain ⟨hcfg, hin, hout⟩ := hf.samePorts
    refine ⟨hcfg, hin, errorResponse e, congrArg (· ++ [_]) hout, fun hr => ?_, fun _ => ?_⟩
    · exact absurd ((errorResponse_code e).symm.trans hr) (errorCode_ne_zero e)
    · exact ⟨rfl, (errorResponse_code e).symm, (errorResponse_info e).symm⟩
  | @done w u hd =>
    obtain ⟨hcfg, hin, hout⟩ := hd.samePorts
    refine ⟨hcfg, hin, okResponse w, congrArg (· ++ [_]) hout, fun _ => ?_, fun hr => ?_⟩
    · exact ⟨okResponse_info w, hd.latch⟩
    · exact absurd (okResponse_code w) hr

/-- Settles O4: no row of the table has the opcode, and QUERY has another. -/
theorem decoderRefusesExactlyUnassignedOpcodes : Obligations.DecoderRefusesExactlyUnassignedOpcodes := by
  intro p e
  rw [decode_eq_error, unassigned_iff, ← headerOpc_toNat, BitVec.ofNat_toNat, BitVec.setWidth_eq]

/-- Settles O5, by running the decoder on each header. -/
theorem writtenOutHeadersDecode : Obligations.WrittenOutHeadersDecode :=
  ⟨rfl, rfl, rfl, rfl, rfl, rfl, rfl, rfl, rfl, rfl, rfl, rfl⟩

/-- Settles O13: the fields of a format word are its digits, a byte is zero-extended, and a number is taken modulo
2^32. -/
theorem errorCodesAndInformationWords : Obligations.ErrorCodesAndInformationWords := by
  have hnumber : ∀ n, (BitVec.ofNat 32 n).toNat = n % 2 ^ 32 := fun n => BitVec.toNat_ofNat n 32
  exact ⟨fun enc bits => ⟨rfl, errorInfo_unsupportedFormat_toNat enc bits⟩, fun n => ⟨rfl, hnumber n⟩,
    fun p => ⟨rfl, byteWord_toNat p⟩, fun _ => ⟨rfl, rfl⟩, ⟨fun _ => rfl, rfl, rfl, rfl, rfl⟩,
    fun o => ⟨rfl, byteWord_toNat o⟩, fun n => ⟨rfl, hnumber n⟩, fun _ => ⟨rfl, rfl⟩, ⟨fun _ => rfl, rfl, rfl⟩,
    fun n => ⟨rfl, hnumber n⟩⟩

/-- Settles O17: the phase check passes, and the operand check of the command fails. -/
theorem badHeaderOperandsAreRefused : Obligations.BadHeaderOperandsAreRefused := by
  intro s a d
  refine ⟨fun ha => require_of_false (decide_eq_false ha), fun hp => ?_⟩
  have hready : decide (s.phase = .ready) = true := decide_eq_true hp
  refine ⟨fun ha => ?_, fun ha => ?_, fun ha => ?_⟩
  · have hzero : decide (a = 0) = false := decide_eq_false ha
    exact ⟨require_of_true hready (require_of_false hzero),
      require_of_true hready (require_of_false hzero),
      require_of_true hready (require_of_false hzero)⟩
  · have hnone := positionOperand_eq_none ha
    exact ⟨exec_mapFind_of_no_position hp hnone, exec_mapFindMirror_of_no_position hp hnone⟩
  · have hchannel : (argHighZero a && decide (argLow a < s.channelCount)) = false := by
      rw [← Bool.not_eq_true, channelOperand_iff]
      omega
    exact require_of_true hready (require_of_false hchannel)

/-- Settles O18: the checks of phase and operand pass, and the length check fails. -/
theorem badLengthsAreRefused : Obligations.BadLengthsAreRefused := by
  intro s a d
  have hlength : d ≠ [] → d.length ≠ 0 := mt List.length_eq_zero_iff.1
  have hzero : decide ((0 : Arg) = 0) = true := rfl
  refine ⟨fun hd => ?_, fun row hrow hd ha => ?_, fun hp => ?_⟩
  · rw [exec, execReset]
    exact require_of_true hzero (require_length_of_ne (hlength hd))
  · obtain ⟨r, -, hnumber, hexec⟩ := exec_of_mem_queryRows _ (mem_of_lookup hrow)
    rw [hexec]
    rw [← hnumber] at ha
    obtain ha | ⟨hp, ha⟩ := ha
    · obtain ⟨hany, hpresent⟩ := readable_of_engineRegister ha
      exact queryRegister_of_length (.inl hany) hpresent (hlength hd)
    · exact queryRegister_of_length (.inr hp) (registerPresent_of_number ha) (hlength hd)
  · have hready : decide (s.phase = .ready) = true := decide_eq_true hp
    refine ⟨fun hd => ⟨?_, ?_, fun p ha hpos => ?_⟩, fun ha hc hd => ?_, fun hd => ?_, fun hd => ?_⟩
    · exact require_of_true hready (require_of_true hzero (require_length_of_ne (hlength hd)))
    · exact require_of_true hready (require_of_true hzero (require_length_of_ne (hlength hd)))
    · have hsome := (positionOperand_of_lt ha).trans hpos
      exact ⟨exec_mapFind_of_length hp hsome (hlength hd), exec_mapFindMirror_of_length hp hsome (hlength hd)⟩
    · have hchannel := channelOperand_iff.2 ⟨ha, hc⟩
      exact require_of_true hready (require_of_true hchannel (require_length_of_ne hd))
    · exact require_of_true hready (require_of_true hzero (require_length_of_ne hd))
    · exact require_of_true hready (require_length_of_ne hd)

end Sys2Proof.Machine
end

section
/-! SUPPORT. A binary32 pattern is a sign and magnitude bits; what its class, its negation and its place in the order say of
them (40_numerics R100 to R103). -/

namespace Sys2Proof.Machine

variable {x y : F32} {s : Bool} {m : Nat}

/-! ### Sign and magnitude bits -/

theorem magBits_lt (x : F32) : magBits x < 2 ^ 31 := Nat.mod_lt _ (by decide)

theorem signBit_eq_decide (x : F32) : signBit x = decide (2 ^ 31 ≤ x.toNat) :=
  (BitVec.msb_eq_getLsbD_last x).symm.trans (BitVec.msb_eq_decide x)

/-- A pattern is its magnitude bits below its sign bit. -/
theorem toNat_eq_sign_add_magBits (x : F32) : x.toNat = (if signBit x then 2 ^ 31 else 0) + magBits x := by
  have hx := x.isLt
  simp only [signBit_eq_decide, magBits, decide_eq_true_eq]
  split <;> omega

theorem eq_of_sign_of_magBits (hs : signBit x = signBit y) (hm : magBits x = magBits y) : x = y := by
  rw [← BitVec.toNat_inj, toNat_eq_sign_add_magBits x, toNat_eq_sign_add_magBits y, hs, hm]

theorem withSign_toNat (s : Bool) (hm : m < 2 ^ 31) : (withSign s m).toNat = (if s then 2 ^ 31 else 0) + m := by
  rw [withSign, BitVec.toNat_ofNat]
  cases s <;> simp only [Bool.false_eq_true, ↓reduceIte] <;> omega

theorem signBit_withSign (s : Bool) (hm : m < 2 ^ 31) : signBit (withSign s m) = s := by
  rw [signBit_eq_decide, withSign_toNat s hm]
  cases s
  · exact decide_eq_false (by simpa using hm)
  · exact decide_eq_true (Nat.le_add_right _ _)

theorem magBits_withSign (s : Bool) (hm : m < 2 ^ 31) : magBits (withSign s m) = m := by
  rw [magBits, withSign_toNat s hm]
  cases s <;> simp only [Bool.false_eq_true, ↓reduceIte] <;> omega

theorem withSign_of_magBits (h : magBits x = m) : withSign (signBit x) m = x := by
  have hm : m < 2 ^ 31 := h ▸ magBits_lt x
  exact eq_of_sign_of_magBits (signBit_withSign _ hm) ((magBits_withSign _ hm).trans h.symm)

@[simp] theorem signBit_fneg (x : F32) : signBit (fneg x) = !signBit x := by
  simp [signBit, fneg]

@[simp] theorem magBits_fneg (x : F32) : magBits (fneg x) = magBits x := by
  rw [magBits, fneg, BitVec.toNat_xor, Nat.xor_mod_two_pow]
  exact Nat.xor_zero _

/-- R101: `fneg` adds the weight of the sign bit, modulo the word. -/
theorem fneg_toNat (x : F32) : (fneg x).toNat = (x.toNat + 2 ^ 31) % 2 ^ 32 := by
  have hm := magBits_lt x
  rw [toNat_eq_sign_add_magBits (fneg x), toNat_eq_sign_add_magBits x, signBit_fneg, magBits_fneg]
  cases signBit x <;> simp only [Bool.not_false, Bool.not_true, Bool.false_eq_true, ↓reduceIte] <;> omega

/-- R102: `fabs` keeps the magnitude bits alone. -/
theorem fabs_toNat (x : F32) : (fabs x).toNat = x.toNat % 2 ^ 31 :=
  (BitVec.toNat_and _ _).trans (Nat.and_two_pow_sub_one_eq_mod x.toNat 31)

/-! ### The classes -/

theorem isFinite_iff : isFinite x = true ↔ magBits x < infBits := decide_eq_true_iff
theorem isInf_iff : isInf x = true ↔ magBits x = infBits := decide_eq_true_iff
theorem isNaN_eq_false_iff : isNaN x = false ↔ magBits x ≤ infBits := by simp [isNaN]
theorem isZero_iff_magBits : isZero x = true ↔ magBits x = 0 := decide_eq_true_iff

@[simp] theorem isNaN_fneg (x : F32) : isNaN (fneg x) = isNaN x := by simp [isNaN]
@[simp] theorem isInf_fneg (x : F32) : isInf (fneg x) = isInf x := by simp [isInf]
@[simp] theorem magUnits_fneg (x : F32) : magUnits (fneg x) = magUnits x := by simp [magUnits]

theorem isNaN_of_isFinite (h : isFinite x = true) : isNaN x = false :=
  isNaN_eq_false_iff.2 (isFinite_iff.1 h).le

theorem isInf_of_isFinite (h : isFinite x = true) : isInf x = false :=
  decide_eq_false (isFinite_iff.1 h).ne

theorem isNaN_of_isInf (h : isInf x = true) : isNaN x = false :=
  isNaN_eq_false_iff.2 (isInf_iff.1 h).le

theorem isZero_of_isInf (h : isInf x = true) : isZero x = false :=
  decide_eq_false fun h0 => absurd (h0.symm.trans (isInf_iff.1 h)) (by decide)

theorem isFinite_of_isZero (h : isZero x = true) : isFinite x = true :=
  isFinite_iff.2 (by rw [isZero_iff_magBits.1 h]; decide)

/-- What is neither a NaN nor an infinity is finite. -/
theorem isFinite_of_not_isInf (hn : isNaN x = false) (hi : isInf x = false) : isFinite x = true :=
  isFinite_iff.2 ((isNaN_eq_false_iff.1 hn).lt_of_ne (of_decide_eq_false hi))

@[simp] theorem isNaN_openNan (op : FloatOp) (x y : F32) : isNaN (openNan op x y) = true := by
  rw [openNan]
  split
  · assumption
  · decide

/-! ### Signed zeros and infinities -/

theorem isInf_withSign_infBits (s : Bool) : isInf (withSign s infBits) = true :=
  isInf_iff.2 (magBits_withSign s (by decide))

theorem isZero_withSign_zero (s : Bool) : isZero (withSign s 0) = true :=
  isZero_iff_magBits.2 (magBits_withSign s (by decide))

theorem withSign_signBit_of_isInf (h : isInf x = true) : withSign (signBit x) infBits = x :=
  withSign_of_magBits (isInf_iff.1 h)

theorem withSign_not_signBit_of_isInf (h : isInf x = true) : withSign (!signBit x) infBits = fneg x := by
  rw [← signBit_fneg]
  exact withSign_signBit_of_isInf ((isInf_fneg x).trans h)

/-! ### The order of the values -/

/-- R103: the order of the keys is the order `fgt` tells. -/
theorem fgt_iff (hx : isNaN x = false) (hy : isNaN y = false) : fgt x y = true ↔ orderKey y < orderKey x := by
  simp [fgt, hx, hy]

theorem flt_iff (hx : isNaN x = false) (hy : isNaN y = false) : flt x y = true ↔ orderKey x < orderKey y := by
  simp [flt, hx, hy]

theorem fgt_eq_flt_swap (x y : F32) : fgt x y = flt y x := by
  rw [fgt, flt, Bool.and_comm (!isNaN x)]

theorem orderKey_le_infBits (hx : isNaN x = false) : orderKey x ≤ infBits := by
  have := isNaN_eq_false_iff.1 hx
  rw [orderKey]
  split <;> omega

theorem neg_infBits_le_orderKey (hx : isNaN x = false) : -(infBits : Int) ≤ orderKey x := by
  have := isNaN_eq_false_iff.1 hx
  rw [orderKey]
  split <;> omega

/-- The key of `+∞` is its own. -/
theorem eq_posInf_of_orderKey (h : orderKey x = infBits) : x = 0x7F800000#32 := by
  rw [orderKey] at h
  cases hs : signBit x
  · rw [hs, if_neg Bool.false_ne_true] at h
    exact eq_of_sign_of_magBits hs (Int.natCast_inj.1 h)
  · rw [hs, if_pos rfl, infBits] at h
    omega

/-- The key of `-∞` is its own. -/
theorem eq_negInf_of_orderKey (h : orderKey x = -(infBits : Int)) : x = 0xFF800000#32 := by
  rw [orderKey] at h
  cases hs : signBit x
  · rw [hs, if_neg Bool.false_ne_true, infBits] at h
    omega
  · rw [hs, if_pos rfl] at h
    exact eq_of_sign_of_magBits hs (Int.natCast_inj.1 (neg_inj.1 h))

end Sys2Proof.Machine
end

section
/-! SUPPORT. One rounding (40_numerics R100): the magnitudes that patterns name, in units of 2^-149, and the one that
`roundUnits` picks. Magnitude bits past infinity's name magnitudes too, as if the exponents went on; the largest finite
value and the first of these are the two sides of the midpoint above which a result is infinite. -/

namespace Sys2Proof.Machine

/-- The magnitude, in units of 2^-149, that magnitude bits name. -/
def unitsOf (m : Nat) : Nat :=
  if m / 2 ^ 23 = 0 then m else (2 ^ 23 + m % 2 ^ 23) <<< (m / 2 ^ 23 - 1)

theorem magUnits_eq_unitsOf (x : F32) : magUnits x = unitsOf (magBits x) := rfl

/-- `t` quanta of `2^k` units: the bits carry into the exponent where `t` is a power of two. -/
theorem unitsOf_quanta {k t : Nat} (ht : t ≤ 2 ^ 24) (hk : k = 0 ∨ 2 ^ 23 ≤ t) :
    unitsOf (k * 2 ^ 23 + t) = t * 2 ^ k := by
  rw [unitsOf]
  obtain hlow | hnormal | rfl : t < 2 ^ 23 ∨ (2 ^ 23 ≤ t ∧ t < 2 ^ 24) ∨ t = 2 ^ 24 := by omega
  · obtain rfl : k = 0 := by omega
    rw [if_pos (by omega)]
    omega
  · have hexp : (k * 2 ^ 23 + t) / 2 ^ 23 = k + 1 := by omega
    have hfrac : 2 ^ 23 + (k * 2 ^ 23 + t) % 2 ^ 23 = t := by omega
    rw [if_neg (by omega), hexp, hfrac, Nat.shiftLeft_eq, Nat.add_sub_cancel]
  · have hexp : (k * 2 ^ 23 + 2 ^ 24) / 2 ^ 23 = k + 2 := by omega
    have hfrac : 2 ^ 23 + (k * 2 ^ 23 + 2 ^ 24) % 2 ^ 23 = 2 ^ 23 := by omega
    have hshift : k + 2 - 1 = k + 1 := by omega
    rw [if_neg (by omega), hexp, hfrac, Nat.shiftLeft_eq, hshift]
    ring

theorem unitsOf_strictMono : StrictMono unitsOf := by
  refine strictMono_nat_of_lt_succ fun m => ?_
  obtain ⟨k, t, rfl, ht, hk⟩ : ∃ k t, m = k * 2 ^ 23 + t ∧ t < 2 ^ 24 ∧ (k = 0 ∨ 2 ^ 23 ≤ t) :=
    ⟨m / 2 ^ 23 - 1, m - (m / 2 ^ 23 - 1) * 2 ^ 23, by omega, by omega, by omega⟩
  rw [Nat.add_assoc, unitsOf_quanta ht.le hk, unitsOf_quanta ht (by omega)]
  exact Nat.mul_lt_mul_of_pos_right t.lt_succ_self (by positivity)

/-- The midpoint above the largest finite magnitude, in units of 2^-149. -/
def overflowMidpoint : ℚ := (2 ^ 24 - 1 / 2) * 2 ^ 253

theorem unitsOf_infBits : (unitsOf infBits : ℚ) = 2 ^ 24 * 2 ^ 253 := by
  have h : unitsOf (253 * 2 ^ 23 + 2 ^ 24) = 2 ^ 24 * 2 ^ 253 := unitsOf_quanta le_rfl (.inr (by norm_num))
  exact_mod_cast h

theorem unitsOf_maxFinite : (unitsOf (infBits - 1) : ℚ) = (2 ^ 24 - 1) * 2 ^ 253 := by
  have h : unitsOf (253 * 2 ^ 23 + (2 ^ 24 - 1)) = (2 ^ 24 - 1) * 2 ^ 253 :=
    unitsOf_quanta (by norm_num) (.inr (by norm_num))
  rw [show infBits - 1 = 253 * 2 ^ 23 + (2 ^ 24 - 1) from rfl, h]
  norm_num

/-! ### Nearest natural -/

/-- `p / q` lies a part `p % q / q` of the way up from its whole part, and `divNearestEven` goes down, up, or, from the middle,
to the even neighbour. -/
theorem divNearestEven_cases (p : Nat) {q : Nat} (hq : 0 < q) :
    ∃ θ : ℚ, (p : ℚ) / q = (p / q : Nat) + θ ∧ 0 ≤ θ ∧ θ < 1 ∧
      ((θ < 1 / 2 ∧ divNearestEven p q = p / q) ∨ (1 / 2 < θ ∧ divNearestEven p q = p / q + 1) ∨
        (θ = 1 / 2 ∧ divNearestEven p q % 2 = 0 ∧
          (divNearestEven p q = p / q ∨ divNearestEven p q = p / q + 1))) := by
  have hq' : (0 : ℚ) < q := by exact_mod_cast hq
  have hsum : (p : ℚ) = q * (p / q : Nat) + (p % q : Nat) := by exact_mod_cast (Nat.div_add_mod p q).symm
  have hlt : ((p % q : Nat) : ℚ) < q := by exact_mod_cast Nat.mod_lt p hq
  refine ⟨(p % q : Nat) / q, ?_, by positivity, (div_lt_one hq').2 hlt, ?_⟩
  · rw [div_eq_iff hq'.ne', add_mul, div_mul_cancel₀ _ hq'.ne', mul_comm]
    exact hsum
  · rw [div_lt_div_iff₀ hq' two_pos, div_lt_div_iff₀ two_pos hq', div_eq_div_iff hq'.ne' two_ne_zero, divNearestEven]
    norm_cast
    split_ifs <;> omega

/-- No number that is at most the whole part of `p / q`, or at least the next natural, is nearer to `p / q` than
`divNearestEven p q`; and that is even where another one is as near. -/
theorem divNearestEven_nearest (p : Nat) {q : Nat} (hq : 0 < q) {y : ℚ}
    (hy : y ≤ (p / q : Nat) ∨ ((p / q : Nat) : ℚ) + 1 ≤ y) :
    |(divNearestEven p q : ℚ) - p / q| ≤ |y - p / q| ∧
      (|y - p / q| = |(divNearestEven p q : ℚ) - p / q| → y ≠ divNearestEven p q → divNearestEven p q % 2 = 0) := by
  obtain ⟨θ, hv, h0, h1, hcases⟩ := divNearestEven_cases p hq
  have hdown : |((p / q : Nat) : ℚ) - p / q| = θ := by
    rw [hv, sub_add_cancel_left, abs_neg, abs_of_nonneg h0]
  have hup : |((p / q + 1 : Nat) : ℚ) - p / q| = 1 - θ := by
    rw [hv, Nat.cast_succ, add_sub_add_left_eq_sub, abs_of_pos (sub_pos.2 h1)]
  have hother : θ + ((p / q : Nat) - y) ≤ |y - p / q| ∧ (1 - θ) + (y - ((p / q : Nat) + 1)) ≤ |y - p / q| := by
    rw [hv, abs_sub_comm]
    constructor
    · exact le_trans (by linarith) (le_abs_self _)
    · exact le_trans (by linarith) (neg_le_abs _)
  obtain ⟨hbelow, habove⟩ := hother
  obtain ⟨hθ, hd⟩ | ⟨hθ, hd⟩ | ⟨rfl, heven, hd⟩ := hcases
  · rw [hd, hdown]
    refine ⟨?_, fun heq hne => absurd ?_ hne⟩ <;> obtain hy | hy := hy <;> linarith
  · rw [hd, hup]
    refine ⟨?_, fun heq hne => absurd ?_ hne⟩ <;> obtain hy | hy := hy <;> push_cast <;> linarith
  · refine ⟨?_, fun _ _ => heven⟩
    obtain hd | hd := hd
    · rw [hd, hdown]
      obtain hy | hy := hy <;> linarith
    · rw [hd, hup]
      obtain hy | hy := hy <;> linarith

/-! ### Nearest magnitude -/

/-- The magnitude bits `m` name a magnitude as near to `v` as any, of either sign; and `m` is even where another one is as
near. -/
def IsNearestUnits (v : ℚ) (m : Nat) : Prop :=
  ∀ (n : Nat) (y : ℚ), |y| = unitsOf n →
    |(unitsOf m : ℚ) - v| ≤ |y - v| ∧ (|y - v| = |(unitsOf m : ℚ) - v| → y ≠ unitsOf m → m % 2 = 0)

/-- The exponent of the quantum that `roundUnits` takes (R100). -/
def quantumExponent (p q : Nat) : Nat := Nat.log2 (p / q) - 23

/-- What `roundUnits` answers before it stops at infinity. -/
def roundUnbounded (p q : Nat) : Nat :=
  quantumExponent p q * 2 ^ 23 + divNearestEven p (q <<< quantumExponent p q)

theorem roundUnits_eq_min (p q : Nat) : roundUnits p q = min infBits (roundUnbounded p q) := rfl

/-- The whole quanta in `p / q` fill a significand: they are fewer than 2^24, and at least 2^23 above the subnormals. -/
theorem quanta_bounds (p q : Nat) :
    p / (q <<< quantumExponent p q) < 2 ^ 24 ∧
      (quantumExponent p q = 0 ∨ 2 ^ 23 ≤ p / (q <<< quantumExponent p q)) := by
  rw [Nat.shiftLeft_eq, ← Nat.div_div_eq_div_mul, quantumExponent]
  have hupper : p / q < 2 ^ (Nat.log2 (p / q) + 1) := Nat.lt_log2_self
  obtain hsmall | hlarge := le_or_gt (Nat.log2 (p / q)) 23
  · rw [Nat.sub_eq_zero_of_le hsmall, pow_zero, Nat.div_one]
    exact ⟨hupper.trans_le (Nat.pow_le_pow_right (by decide) (by omega)), .inl rfl⟩
  · obtain ⟨k, hk⟩ : ∃ k, Nat.log2 (p / q) = 23 + k := ⟨_, (Nat.add_sub_of_le hlarge.le).symm⟩
    have hlower : 2 ^ (23 + k) ≤ p / q := hk ▸ Nat.log2_self_le (by rintro h; rw [h, Nat.log2_zero] at hk; omega)
    rw [hk] at hupper ⊢
    rw [Nat.add_sub_cancel_left, Nat.div_lt_iff_lt_mul (by positivity), Nat.le_div_iff_mul_le (by positivity),
      ← pow_add, ← pow_add]
    exact ⟨by convert hupper using 2; omega, .inr hlower⟩

theorem divNearestEven_le (p q : Nat) : divNearestEven p q ≤ p / q + 1 := by
  rw [divNearestEven]
  split_ifs <;> omega

theorem le_divNearestEven (p q : Nat) : p / q ≤ divNearestEven p q := by
  rw [divNearestEven]
  split_ifs <;> omega

/-- No magnitude lies strictly between two neighbouring numbers of quanta, from the first full significand on. -/
theorem magnitude_le_or_ge_quanta {k f n : Nat} {z : ℚ} (hf : f < 2 ^ 24) (hk : k = 0 ∨ 2 ^ 23 ≤ f)
    (hz : |z * 2 ^ k| = unitsOf n) : z ≤ f ∨ (f : ℚ) + 1 ≤ z := by
  have hpos : (0 : ℚ) < 2 ^ k := by positivity
  obtain hneg | hnonneg := le_total z 0
  · exact .inl (hneg.trans f.cast_nonneg)
  rw [abs_of_nonneg (by positivity)] at hz
  obtain hn | hn : n ≤ k * 2 ^ 23 + f ∨ k * 2 ^ 23 + (f + 1) ≤ n := by omega
  · have h := unitsOf_strictMono.monotone hn
    rw [unitsOf_quanta hf.le hk] at h
    exact .inl (le_of_mul_le_mul_right (by rw [hz]; exact_mod_cast h) hpos)
  · have h := unitsOf_strictMono.monotone hn
    rw [unitsOf_quanta hf (by omega)] at h
    exact .inr (le_of_mul_le_mul_right (by rw [hz]; exact_mod_cast h) hpos)

/-- R100: before it stops at infinity, the rounding picks the nearest magnitude, ties to even: the nearest natural number of
quanta is the nearest magnitude of all. -/
theorem roundUnbounded_nearest (p : Nat) {q : Nat} (hq : 0 < q) : IsNearestUnits (p / q) (roundUnbounded p q) := by
  intro n y hy
  obtain ⟨hlt, hnormal⟩ := quanta_bounds p q
  have hle := divNearestEven_le p (q <<< quantumExponent p q)
  have hge := le_divNearestEven p (q <<< quantumExponent p q)
  rw [roundUnbounded]
  generalize quantumExponent p q = k at *
  have hk : (0 : ℚ) < 2 ^ k := by positivity
  have hQ : 0 < q <<< k := by rw [Nat.shiftLeft_eq]; positivity
  have hv : (p : ℚ) / q = p / (q <<< k : Nat) * 2 ^ k := by
    rw [Nat.shiftLeft_eq]
    push_cast
    field_simp
  obtain ⟨z, rfl⟩ : ∃ z, y = z * 2 ^ k := ⟨y / 2 ^ k, (div_mul_cancel₀ y hk.ne').symm⟩
  obtain ⟨hnear, htie⟩ := divNearestEven_nearest p hQ (magnitude_le_or_ge_quanta hlt hnormal hy)
  rw [unitsOf_quanta (by omega) (by omega), hv]
  push_cast
  rw [← sub_mul, ← sub_mul, abs_mul, abs_mul, mul_le_mul_iff_left₀ (abs_pos.2 hk.ne'),
    mul_left_inj' (abs_pos.2 hk.ne').ne', Ne, mul_left_inj' hk.ne']
  refine ⟨hnear, fun heq hne => ?_⟩
  have heven := htie heq hne
  omega

/-- Past the midpoint above the largest finite magnitude, and at it, the bits are infinity's or more. -/
theorem infBits_le_iff {v : ℚ} {m : Nat} (h : IsNearestUnits v m) : infBits ≤ m ↔ overflowMidpoint ≤ v := by
  have hinf := unitsOf_infBits
  have hmax := unitsOf_maxFinite
  rw [overflowMidpoint]
  refine ⟨fun hm => ?_, fun hv => ?_⟩
  · have hU : (unitsOf infBits : ℚ) ≤ unitsOf m := by exact_mod_cast unitsOf_strictMono.monotone hm
    have hnear := (h (infBits - 1) _ (Nat.abs_cast _)).1
    have := (le_abs_self _).trans hnear
    obtain ⟨hcase, -⟩ | ⟨hcase, -⟩ := abs_cases ((unitsOf (infBits - 1) : ℚ) - v) <;> linarith
  · by_contra hm
    have hU : (unitsOf m : ℚ) ≤ unitsOf (infBits - 1) := by
      exact_mod_cast unitsOf_strictMono.monotone (by omega : m ≤ infBits - 1)
    obtain ⟨hnear, htie⟩ := h infBits _ (Nat.abs_cast _)
    have hmid : v = (2 ^ 24 - 1 / 2) * 2 ^ 253 ∧ (unitsOf m : ℚ) = unitsOf (infBits - 1) := by
      rw [abs_of_nonpos (by linarith)] at hnear
      obtain ⟨hcase, -⟩ | ⟨hcase, -⟩ := abs_cases ((unitsOf infBits : ℚ) - v)
      · constructor <;> linarith
      · constructor <;> linarith
    obtain ⟨rfl, hU⟩ := hmid
    obtain rfl := unitsOf_strictMono.injective (Nat.cast_injective hU)
    have heven := htie (by rw [hinf, hmax]; norm_num) (by rw [hinf, hmax]; norm_num)
    exact absurd heven (by decide)

end Sys2Proof.Machine
end

section
/-! SUPPORT. Exact values as signed magnitudes, and the operations on finite operands: each one rounds once the magnitude of
the exact real result and gives it the result's sign (40_numerics R100, R101). -/

namespace Sys2Proof.Machine

variable {a b x y : F32} {s t : Bool} {u v : ℚ} {m : Nat}

/-! ### Signed magnitudes -/

/-- The number of magnitude `v` and the given sign, negative for `true`. -/
def signed (s : Bool) (v : ℚ) : ℚ := if s then -v else v

theorem exactValue_eq_signed (x : F32) : exactValue x = signed (signBit x) (magUnits x) / 2 ^ 149 := rfl

theorem signed_not (s : Bool) (v : ℚ) : signed (!s) v = -signed s v := by cases s <;> simp [signed]

theorem signed_neg (s : Bool) (v : ℚ) : signed s (-v) = -signed s v := by cases s <;> simp [signed]

theorem signed_signed (s : Bool) (v : ℚ) : signed s (signed s v) = v := by cases s <;> simp [signed]

theorem abs_signed (s : Bool) (v : ℚ) : |signed s v| = |v| := by cases s <;> simp [signed]

theorem signed_add (s : Bool) (u v : ℚ) : signed s (u + v) = signed s u + signed s v := by
  cases s <;> simp [signed, neg_add_rev, add_comm]

theorem signed_sub (s : Bool) (u v : ℚ) : signed s (u - v) = signed s u - signed s v := by
  rw [sub_eq_add_neg, signed_add, signed_neg, sub_eq_add_neg]

theorem signed_xor_mul (s t : Bool) (u v : ℚ) : signed (s ^^ t) (u * v) = signed s u * signed t v := by
  cases s <;> cases t <;> simp [signed]

theorem signed_xor_div (s t : Bool) (u v : ℚ) : signed (s ^^ t) (u / v) = signed s u / signed t v := by
  cases s <;> cases t <;> simp [signed, neg_div, div_neg]

/-- A magnitude above zero is negative with the sign bit set, and only then. -/
theorem signed_div_neg_iff {d : ℚ} (s : Bool) (hv : 0 < v) (hd : 0 < d) : signed s v / d < 0 ↔ s = true := by
  rw [div_lt_iff₀ hd, zero_mul]
  cases s
  · simpa [signed] using hv.le
  · simpa [signed] using hv

/-- The exact value of a pattern has the magnitude that its magnitude bits name, whatever sign is put before it. -/
theorem exactValue_eq_signed_div (s : Bool) (c : F32) :
    ∃ y : ℚ, |y| = unitsOf (magBits c) ∧ exactValue c = signed s y / 2 ^ 149 :=
  ⟨signed s (signed (signBit c) (magUnits c)),
    by rw [abs_signed, abs_signed, magUnits_eq_unitsOf, Nat.abs_cast], by rw [signed_signed]; rfl⟩

theorem exactValue_withSign (s : Bool) (hm : m < 2 ^ 31) : exactValue (withSign s m) = signed s (unitsOf m) / 2 ^ 149 := by
  rw [exactValue_eq_signed, signBit_withSign s hm, magUnits_eq_unitsOf, magBits_withSign s hm]

theorem abs_signed_div_sub (s : Bool) (u v d : ℚ) : |signed s u / d - signed s v / d| = |u - v| / |d| := by
  rw [← sub_div, ← signed_sub, abs_div, abs_signed]

theorem signed_div_inj {d : ℚ} (hd : d ≠ 0) : signed s u / d = signed s v / d ↔ u = v := by
  rw [div_left_inj' hd]
  cases s <;> simp [signed]

/-! ### One rounding -/

/-- R100, R101: the pattern of a sign and rounded magnitude bits is the signed magnitude rounded once. -/
theorem roundsTo_withSign (s : Bool) (p : Nat) {q : Nat} (hq : 0 < q) (hv : v = signed s ((p : ℚ) / q) / 2 ^ 149) :
    roundsTo v (withSign s (roundUnits p q)) := by
  subst hv
  have hnear := roundUnbounded_nearest p hq
  have hover := infBits_le_iff hnear
  have habs : |signed s ((p : ℚ) / q) / 2 ^ 149| = (p : ℚ) / q / 2 ^ 149 := by
    rw [abs_div, abs_signed, abs_of_nonneg (by positivity), abs_of_nonneg (by positivity)]
  have hscale : overflowMidpoint = (2 ^ 24 - 1 / 2) * 2 ^ 104 * 2 ^ 149 := by rw [overflowMidpoint]; norm_num
  unfold roundsTo
  rw [habs, div_lt_iff₀ (by positivity), le_div_iff₀ (by positivity), ← hscale, ← not_le, ← hover,
    roundUnits_eq_min]
  constructor
  · intro hfinite
    have hlt : roundUnbounded p q < infBits := not_le.1 hfinite
    have hm : roundUnbounded p q < 2 ^ 31 := hlt.trans (by decide)
    rw [min_eq_right hlt.le]
    refine ⟨isFinite_iff.2 (by rwa [magBits_withSign s hm]), fun c _ => ?_⟩
    obtain ⟨y, hy, hc⟩ := exactValue_eq_signed_div s c
    obtain ⟨hle, htie⟩ := hnear _ y hy
    rw [hc, exactValue_withSign s hm, magBits_withSign s hm, abs_signed_div_sub, abs_signed_div_sub, Ne,
      signed_div_inj (by positivity), div_left_inj' (by positivity)]
    exact ⟨div_le_div_of_nonneg_right hle (abs_nonneg _), htie⟩
  · intro hlarge
    have hpos : (0 : ℚ) < p / q := lt_of_lt_of_le (by rw [overflowMidpoint]; norm_num) (hover.1 hlarge)
    rw [min_eq_left hlarge, signBit_withSign s (by decide), signed_div_neg_iff s hpos (by positivity)]
    exact ⟨isInf_withSign_infBits s, Iff.rfl⟩

/-! ### The operations on finite operands -/

theorem fadd_of_not_isNaN (hx : isNaN x = false) (hy : isNaN y = false) :
    fadd x y = addParts (openNan .add x y) (signBit x) x (signBit y) y := by
  simp [fadd, hx, hy]

theorem fsub_of_not_isNaN (hx : isNaN x = false) (hy : isNaN y = false) :
    fsub x y = addParts (openNan .sub x y) (signBit x) x (!signBit y) y := by
  simp [fsub, hx, hy]

theorem fmul_of_isFinite (hx : isFinite x = true) (hy : isFinite y = true) :
    fmul x y = withSign (signBit x ^^ signBit y) (roundUnits (magUnits x * magUnits y) (2 ^ 149)) := by
  simp [fmul, isNaN_of_isFinite, isInf_of_isFinite, hx, hy]

theorem fdiv_of_isFinite (hx : isFinite x = true) (hy : isFinite y = true) (h0 : isZero y = false) :
    fdiv x y = withSign (signBit x ^^ signBit y) (roundUnits (magUnits x * 2 ^ 149) (magUnits y)) := by
  simp [fdiv, isNaN_of_isFinite, isInf_of_isFinite, hx, hy, h0]

/-- R101: the sum of finite parts is their exact sum rounded once. -/
theorem addParts_roundsTo (nan : F32) (s t : Bool) (ha : isFinite a = true) (hb : isFinite b = true) :
    roundsTo (signed s (magUnits a) / 2 ^ 149 + signed t (magUnits b) / 2 ^ 149) (addParts nan s a t b) := by
  rw [addParts, isInf_of_isFinite ha, isInf_of_isFinite hb, if_neg Bool.false_ne_true, if_neg Bool.false_ne_true, ← add_div]
  obtain rfl | hst := eq_or_ne s t
  · rw [if_pos rfl]
    refine roundsTo_withSign s _ one_pos ?_
    rw [← signed_add]
    push_cast
    rw [div_one]
  · obtain rfl : t = !s := by cases s <;> cases t <;> trivial
    rw [if_neg hst]
    obtain hlt | heq | hgt := lt_trichotomy (magUnits a) (magUnits b)
    · rw [if_neg hlt.le.not_gt, if_pos hlt]
      refine roundsTo_withSign _ _ one_pos ?_
      rw [Nat.cast_sub hlt.le, Nat.cast_one, div_one, signed_sub, signed_not, signed_not]
      ring
    · rw [heq, if_neg (lt_irrefl _), if_neg (lt_irrefl _)]
      have hzero : plusZero = withSign false (roundUnits 0 1) := by decide +kernel
      rw [hzero]
      refine roundsTo_withSign false 0 one_pos ?_
      rw [signed_not, add_neg_cancel]
      simp [signed]
    · rw [if_pos hgt]
      refine roundsTo_withSign _ _ one_pos ?_
      rw [Nat.cast_sub hgt.le, Nat.cast_one, div_one, signed_sub, signed_not]
      ring

theorem fadd_roundsTo (ha : isFinite a = true) (hb : isFinite b = true) :
    roundsTo (exactValue a + exactValue b) (fadd a b) := by
  rw [fadd_of_not_isNaN (isNaN_of_isFinite ha) (isNaN_of_isFinite hb)]
  exact addParts_roundsTo _ _ _ ha hb

theorem fsub_roundsTo (ha : isFinite a = true) (hb : isFinite b = true) :
    roundsTo (exactValue a - exactValue b) (fsub a b) := by
  rw [fsub_of_not_isNaN (isNaN_of_isFinite ha) (isNaN_of_isFinite hb), sub_eq_add_neg, exactValue_eq_signed b, ← neg_div,
    ← signed_not]
  exact addParts_roundsTo _ _ _ ha hb

theorem fmul_roundsTo (ha : isFinite a = true) (hb : isFinite b = true) :
    roundsTo (exactValue a * exactValue b) (fmul a b) := by
  rw [fmul_of_isFinite ha hb]
  refine roundsTo_withSign _ _ (by positivity) ?_
  rw [exactValue_eq_signed, exactValue_eq_signed, div_mul_div_comm, ← signed_xor_mul]
  push_cast
  cases signBit a ^^ signBit b <;> simp only [signed, Bool.false_eq_true, ↓reduceIte] <;> ring

theorem magUnits_pos_iff (x : F32) : 0 < magUnits x ↔ 0 < magBits x :=
  show unitsOf 0 < unitsOf (magBits x) ↔ 0 < magBits x from unitsOf_strictMono.lt_iff_lt

theorem magUnits_pos (h : isZero x = false) : 0 < magUnits x :=
  (magUnits_pos_iff x).2 (Nat.pos_of_ne_zero (of_decide_eq_false h))

theorem fdiv_roundsTo (ha : isFinite a = true) (hb : isFinite b = true) (h0 : isZero b = false) :
    roundsTo (exactValue a / exactValue b) (fdiv a b) := by
  rw [fdiv_of_isFinite ha hb h0]
  refine roundsTo_withSign _ _ (magUnits_pos h0) ?_
  rw [exactValue_eq_signed, exactValue_eq_signed, div_div_div_cancel_right₀ (by positivity), ← signed_xor_div]
  push_cast
  cases signBit a ^^ signBit b <;> simp only [signed, Bool.false_eq_true, ↓reduceIte] <;> ring

end Sys2Proof.Machine
end

section
/-! SUPPORT. The operations where no exact real result is rounded: at infinities, at zero divisors and at NaNs; and the signs of
products and quotients (40_numerics R101). -/

namespace Sys2Proof.Machine

variable {a b x y : F32} {s t : Bool}

/-! ### Sums and differences -/

theorem addParts_inf_inf (nan : F32) (s t : Bool) (ha : isInf a = true) (hb : isInf b = true) :
    addParts nan s a t b = if s = t then withSign s infBits else nan := by
  cases s <;> cases t <;> simp [addParts, ha, hb]

theorem addParts_inf_left (nan : F32) (s t : Bool) (ha : isInf a = true) (hb : isInf b = false) :
    addParts nan s a t b = withSign s infBits := by
  simp [addParts, ha, hb]

theorem addParts_inf_right (nan : F32) (s t : Bool) (ha : isInf a = false) (hb : isInf b = true) :
    addParts nan s a t b = withSign t infBits := by
  simp [addParts, ha, hb]

/-- A finite magnitude and itself with the other sign cancel to `+0.0`. -/
theorem addParts_cancel (nan : F32) (s : Bool) (ha : isInf a = false) : addParts nan s a (!s) a = plusZero := by
  cases s <;> simp [addParts, ha]

theorem addParts_fneg_right (nan : F32) (s : Bool) (a : F32) (t : Bool) (b : F32) :
    addParts nan s a t (fneg b) = addParts nan s a t b := by
  simp only [addParts, isInf_fneg, magUnits_fneg]

/-- The NaN that `addParts` is given is its result, or makes no difference to it. -/
theorem addParts_eq_nan_or (nan : F32) (s : Bool) (a : F32) (t : Bool) (b : F32) :
    addParts nan s a t b = nan ∨ ∀ nan', addParts nan' s a t b = addParts nan s a t b := by
  cases ha : isInf a
  · exact .inr fun _ => by simp only [addParts, ha, Bool.false_eq_true, ↓reduceIte]
  · cases hb : isInf b
    · exact .inr fun _ => by rw [addParts_inf_left _ _ _ ha hb, addParts_inf_left _ _ _ ha hb]
    · simp only [addParts_inf_inf _ _ _ ha hb]
      split
      · exact .inr fun _ => rfl
      · exact .inl rfl

theorem isNaN_fadd (h : isNaN x = true ∨ isNaN y = true) : isNaN (fadd x y) = true := by
  rw [fadd, if_pos (Bool.or_eq_true_iff.2 h)]
  exact isNaN_openNan _ _ _

theorem isNaN_fsub (h : isNaN x = true ∨ isNaN y = true) : isNaN (fsub x y) = true := by
  rw [fsub, if_pos (Bool.or_eq_true_iff.2 h)]
  exact isNaN_openNan _ _ _

theorem fadd_fneg_self (hx : isFinite x = true) : fadd x (fneg x) = plusZero := by
  have hn := isNaN_of_isFinite hx
  rw [fadd_of_not_isNaN hn ((isNaN_fneg x).trans hn), signBit_fneg, addParts_fneg_right]
  exact addParts_cancel _ _ (isInf_of_isFinite hx)

/-- R101: of two infinities, those of one sign have a sum and those of two signs a difference; the other result is a NaN. -/
theorem fadd_fsub_inf_inf (hx : isInf x = true) (hy : isInf y = true) :
    if signBit x = signBit y then fadd x y = x ∧ isNaN (fsub x y) = true
    else isNaN (fadd x y) = true ∧ fsub x y = x := by
  rw [fadd_of_not_isNaN (isNaN_of_isInf hx) (isNaN_of_isInf hy), fsub_of_not_isNaN (isNaN_of_isInf hx) (isNaN_of_isInf hy),
    addParts_inf_inf _ _ _ hx hy, addParts_inf_inf _ _ _ hx hy, withSign_signBit_of_isInf hx]
  cases signBit x <;> cases signBit y <;> simp

theorem fadd_fsub_inf_finite (hx : isInf x = true) (hy : isFinite y = true) :
    fadd x y = x ∧ fadd y x = x ∧ fsub x y = x ∧ fsub y x = fneg x := by
  have hxn := isNaN_of_isInf hx
  have hyn := isNaN_of_isFinite hy
  have hyi := isInf_of_isFinite hy
  rw [fadd_of_not_isNaN hxn hyn, fadd_of_not_isNaN hyn hxn, fsub_of_not_isNaN hxn hyn, fsub_of_not_isNaN hyn hxn,
    addParts_inf_left _ _ _ hx hyi, addParts_inf_right _ _ _ hyi hx, addParts_inf_left _ _ _ hx hyi,
    addParts_inf_right _ _ _ hyi hx, withSign_signBit_of_isInf hx, withSign_not_signBit_of_isInf hx]
  exact ⟨rfl, rfl, rfl, rfl⟩

theorem fsub_eq_fadd_fneg (h : isNaN (fsub x y) = false) : fsub x y = fadd x (fneg y) := by
  have hno : ¬(isNaN x = true ∨ isNaN y = true) := fun hnan => absurd (isNaN_fsub hnan) (by simp [h])
  obtain ⟨hx, hy⟩ := not_or.1 hno
  rw [Bool.not_eq_true] at hx hy
  rw [fsub_of_not_isNaN hx hy] at h ⊢
  rw [fadd_of_not_isNaN hx ((isNaN_fneg y).trans hy), signBit_fneg, addParts_fneg_right]
  obtain hnan | hsame := addParts_eq_nan_or (openNan .sub x y) (signBit x) x (!signBit y) y
  · rw [hnan, isNaN_openNan] at h
    cases h
  · exact (hsame _).symm

/-! ### Products and quotients -/

theorem isNaN_fmul (h : isNaN x = true ∨ isNaN y = true) : isNaN (fmul x y) = true := by
  rw [fmul, if_pos (Bool.or_eq_true_iff.2 h)]
  exact isNaN_openNan _ _ _

theorem isNaN_fdiv (h : isNaN x = true ∨ isNaN y = true) : isNaN (fdiv x y) = true := by
  rw [fdiv, if_pos (Bool.or_eq_true_iff.2 h)]
  exact isNaN_openNan _ _ _

theorem isNaN_fmul_zero_inf (hx : isZero x = true) (hy : isInf y = true) :
    isNaN (fmul x y) = true ∧ isNaN (fmul y x) = true := by
  have hxf := isFinite_of_isZero hx
  simp [fmul, hx, hy, isNaN_of_isInf hy, isNaN_of_isFinite hxf]

/-- The product with an infinity of what is neither a zero nor a NaN. -/
theorem fmul_inf_left (hx : isInf x = true) (hn : isNaN y = false) (h0 : isZero y = false) :
    fmul x y = withSign (signBit x ^^ signBit y) infBits := by
  simp [fmul, hx, hn, h0, isNaN_of_isInf hx, isZero_of_isInf hx]

theorem fmul_inf_right (hn : isNaN x = false) (h0 : isZero x = false) (hy : isInf y = true) :
    fmul x y = withSign (signBit x ^^ signBit y) infBits := by
  simp [fmul, hy, hn, h0, isNaN_of_isInf hy, isZero_of_isInf hy]

theorem isNaN_fdiv_inf_inf (hx : isInf x = true) (hy : isInf y = true) : isNaN (fdiv x y) = true := by
  simp [fdiv, hx, hy, isNaN_of_isInf hx, isNaN_of_isInf hy]

theorem fdiv_inf_finite (hx : isInf x = true) (hy : isFinite y = true) :
    fdiv x y = withSign (signBit x ^^ signBit y) infBits := by
  simp [fdiv, hx, isNaN_of_isInf hx, isNaN_of_isFinite hy, isInf_of_isFinite hy]

theorem fdiv_finite_inf (hx : isFinite x = true) (hy : isInf y = true) :
    fdiv x y = withSign (signBit x ^^ signBit y) 0 := by
  simp [fdiv, hy, isNaN_of_isInf hy, isNaN_of_isFinite hx, isInf_of_isFinite hx]

theorem isNaN_fdiv_zero_zero (hx : isZero x = true) (hy : isZero y = true) : isNaN (fdiv x y) = true := by
  have hxf := isFinite_of_isZero hx
  have hyf := isFinite_of_isZero hy
  simp [fdiv, hx, hy, isNaN_of_isFinite, isInf_of_isFinite, hxf, hyf]

theorem fdiv_finite_zero (hx : isFinite x = true) (h0 : isZero x = false) (hy : isZero y = true) :
    fdiv x y = withSign (signBit x ^^ signBit y) infBits := by
  have hyf := isFinite_of_isZero hy
  simp [fdiv, hy, h0, isNaN_of_isFinite, isInf_of_isFinite, hx, hyf]

theorem roundUnits_lt (p q : Nat) : roundUnits p q < 2 ^ 31 :=
  (min_le_left infBits _).trans_lt (by decide)

/-- A product is an unspecified NaN, or has the product of the signs. -/
theorem fmul_eq_openNan_or (x y : F32) :
    fmul x y = openNan .mul x y ∨ ∃ m < 2 ^ 31, fmul x y = withSign (signBit x ^^ signBit y) m := by
  rw [fmul]
  split_ifs
  · exact .inl rfl
  · exact .inl rfl
  · exact .inr ⟨_, by decide, rfl⟩
  · exact .inr ⟨_, roundUnits_lt _ _, rfl⟩

/-- A quotient is an unspecified NaN, or has the product of the signs. -/
theorem fdiv_eq_openNan_or (x y : F32) :
    fdiv x y = openNan .div x y ∨ ∃ m < 2 ^ 31, fdiv x y = withSign (signBit x ^^ signBit y) m := by
  rw [fdiv]
  split_ifs
  · exact .inl rfl
  · exact .inl rfl
  · exact .inr ⟨_, by decide, rfl⟩
  · exact .inr ⟨_, by decide, rfl⟩
  · exact .inl rfl
  · exact .inr ⟨_, by decide, rfl⟩
  · exact .inr ⟨_, roundUnits_lt _ _, rfl⟩

/-- What is an unspecified NaN or carries the sign `s` has the sign `s` where it is no NaN. -/
theorem signBit_of_openNan_or {op : FloatOp} {r : F32} (h : r = openNan op x y ∨ ∃ m < 2 ^ 31, r = withSign s m)
    (hr : isNaN r = false) : signBit r = s := by
  obtain rfl | ⟨m, hm, rfl⟩ := h
  · rw [isNaN_openNan] at hr
    cases hr
  · exact signBit_withSign s hm

/-! ### Comparisons -/

theorem fgt_flt_of_isNaN (h : isNaN x = true ∨ isNaN y = true) : fgt x y = false ∧ flt x y = false := by
  obtain h | h := h <;> simp [fgt, flt, h]

/-- R103: the keys order the finite values as their exact values do. -/
theorem orderKey_lt_iff (x y : F32) : orderKey x < orderKey y ↔ exactValue x < exactValue y := by
  have hlt : magUnits x < magUnits y ↔ magBits x < magBits y := unitsOf_strictMono.lt_iff_lt
  have hgt : magUnits y < magUnits x ↔ magBits y < magBits x := unitsOf_strictMono.lt_iff_lt
  have hx := magUnits_pos_iff x
  have hy := magUnits_pos_iff y
  rw [exactValue, exactValue, div_lt_div_iff_of_pos_right (by positivity), orderKey, orderKey]
  cases signBit x <;> cases signBit y <;> simp only [Bool.false_eq_true, ↓reduceIte] <;> norm_cast <;> omega

theorem fgt_flt_iff_exactValue (hx : isFinite x = true) (hy : isFinite y = true) :
    (fgt x y = true ↔ exactValue y < exactValue x) ∧ (flt x y = true ↔ exactValue x < exactValue y) := by
  rw [fgt_iff (isNaN_of_isFinite hx) (isNaN_of_isFinite hy), flt_iff (isNaN_of_isFinite hx) (isNaN_of_isFinite hy)]
  exact ⟨orderKey_lt_iff y x, orderKey_lt_iff x y⟩

/-- R103: nothing is above `+∞` and all but it below; nothing is below `-∞` and all but it above. -/
theorem fgt_flt_infinities (hx : isNaN x = false) :
    fgt x 0x7F800000#32 = false ∧ flt x 0xFF800000#32 = false ∧
    (fgt 0x7F800000#32 x = true ↔ x ≠ 0x7F800000#32) ∧ (flt 0xFF800000#32 x = true ↔ x ≠ 0xFF800000#32) := by
  have hp : isNaN 0x7F800000#32 = false := by decide
  have hm : isNaN 0xFF800000#32 = false := by decide
  have hpk : orderKey 0x7F800000#32 = infBits := by decide
  have hmk : orderKey 0xFF800000#32 = -(infBits : Int) := by decide
  have hle := orderKey_le_infBits hx
  have hge := neg_infBits_le_orderKey hx
  rw [← Bool.not_eq_true, ← Bool.not_eq_true, fgt_iff hx hp, flt_iff hx hm, fgt_iff hp hx, flt_iff hm hx, hpk, hmk]
  refine ⟨hle.not_gt, hge.not_gt, ⟨?_, fun hne => hle.lt_of_ne (mt eq_posInf_of_orderKey hne)⟩,
    ⟨?_, fun hne => hge.lt_of_ne fun h => hne (eq_negInf_of_orderKey h.symm)⟩⟩
  · rintro hlt rfl
    exact absurd hpk hlt.ne
  · rintro hlt rfl
    exact absurd hmk hlt.ne'

end Sys2Proof.Machine
end

section
/-! SUPPORT. Scaling by a power of two (40_numerics R105). -/

namespace Sys2Proof.Machine

theorem divNearestEven_mul_right (p q : Nat) {c : Nat} (hc : 0 < c) :
    divNearestEven (p * c) (q * c) = divNearestEven p q := by
  simp only [divNearestEven, Nat.mul_div_mul_right _ _ hc, Nat.mul_mod_mul_right, ← mul_assoc, Nat.mul_lt_mul_right hc]

/-- The rounding depends on the quotient alone. -/
theorem roundUnits_mul_right (p q : Nat) {c : Nat} (hc : 0 < c) : roundUnits (p * c) (q * c) = roundUnits p q := by
  simp only [roundUnits, Nat.mul_div_mul_right _ _ hc, Nat.shiftLeft_eq, mul_right_comm q c,
    divNearestEven_mul_right _ _ hc]

/-- The normal pattern of `2^(23 + k)` units of 2^-149: its fraction is 0. -/
def powerOfTwoUnits (k : Nat) : F32 := withSign false (k * 2 ^ 23 + 2 ^ 23)

section
variable {k : Nat} (hk : k ≤ 253)
include hk

theorem magBits_powerOfTwoUnits : magBits (powerOfTwoUnits k) = k * 2 ^ 23 + 2 ^ 23 :=
  magBits_withSign false (by omega)

theorem signBit_powerOfTwoUnits : signBit (powerOfTwoUnits k) = false :=
  signBit_withSign false (by omega)

theorem isFinite_powerOfTwoUnits : isFinite (powerOfTwoUnits k) = true := by
  rw [isFinite_iff, magBits_powerOfTwoUnits hk, infBits]
  omega

theorem isZero_powerOfTwoUnits : isZero (powerOfTwoUnits k) = false := by
  rw [isZero, magBits_powerOfTwoUnits hk]
  exact decide_eq_false (by omega)

theorem magUnits_powerOfTwoUnits : magUnits (powerOfTwoUnits k) = 2 ^ (23 + k) := by
  rw [magUnits_eq_unitsOf, magBits_powerOfTwoUnits hk, unitsOf_quanta (by norm_num) (.inr le_rfl), pow_add]

end

/-- `1 / 2^e` is a normal value, so its rounding is exact. -/
theorem roundUnits_powerOfTwo {e : Nat} (he : e ≤ 126) : roundUnits (2 ^ 149) (2 ^ e) = (126 - e) * 2 ^ 23 + 2 ^ 23 := by
  have hquot : 2 ^ 149 / 2 ^ e = 2 ^ (149 - e) := Nat.pow_div (by omega) two_pos
  have hexp : quantumExponent (2 ^ 149) (2 ^ e) = 126 - e := by
    rw [quantumExponent, hquot, Nat.log2_two_pow]
    omega
  have hquantum : 2 ^ e <<< (126 - e) = 1 * 2 ^ 126 := by
    rw [Nat.shiftLeft_eq, ← pow_add, Nat.add_sub_of_le he, one_mul]
  have hround : divNearestEven (2 ^ 149) (1 * 2 ^ 126) = 2 ^ 23 := by
    rw [show 2 ^ 149 = 2 ^ 23 * 2 ^ 126 from rfl, divNearestEven_mul_right _ _ (by positivity)]
    rfl
  rw [roundUnits_eq_min, roundUnbounded, hexp, hquantum, hround, infBits]
  omega

/-- R105: `INVN` is exact. -/
theorem invN_two_pow {e : Nat} (he : e ≤ 126) : invN (2 ^ e) = powerOfTwoUnits (126 - e) :=
  congrArg (withSign false) (roundUnits_powerOfTwo he)

/-- The pattern of `N = 2^e` has that value. -/
theorem exactValue_powerOfTwoUnits {e : Nat} (he : e ≤ 127) : exactValue (powerOfTwoUnits (126 + e)) = 2 ^ e := by
  have hk : 126 + e ≤ 253 := by omega
  rw [exactValue, signBit_powerOfTwoUnits hk, magUnits_powerOfTwoUnits hk, if_neg Bool.false_ne_true, ← Nat.add_assoc]
  push_cast
  rw [pow_add]
  exact mul_div_cancel_left₀ _ (by positivity)

/-- R105: the product with `1/N` and the quotient by `N` round the same number, with the same sign. -/
theorem fmul_invN_eq_fdiv {x : F32} {e : Nat} (he : e ≤ 126) (hx : isNaN x = false) :
    fmul x (invN (2 ^ e)) = fdiv x (powerOfTwoUnits (126 + e)) := by
  have hsmall : 126 - e ≤ 253 := by omega
  have hlarge : 126 + e ≤ 253 := by omega
  have hsmallf := isFinite_powerOfTwoUnits hsmall
  have hlargef := isFinite_powerOfTwoUnits hlarge
  rw [invN_two_pow he]
  cases hi : isInf x
  · have hxf := isFinite_of_not_isInf hx hi
    have hunits : 2 ^ 149 = 2 ^ (23 + (126 - e)) * 2 ^ e := by
      rw [← pow_add, show 23 + (126 - e) + e = 149 by omega]
    rw [fmul_of_isFinite hxf hsmallf, fdiv_of_isFinite hxf hlargef (isZero_powerOfTwoUnits hlarge),
      signBit_powerOfTwoUnits hsmall, signBit_powerOfTwoUnits hlarge, magUnits_powerOfTwoUnits hsmall,
      magUnits_powerOfTwoUnits hlarge, ← roundUnits_mul_right _ (2 ^ 149) (Nat.two_pow_pos e), ← pow_add, mul_assoc,
      ← hunits, ← Nat.add_assoc]
  · rw [fmul_inf_left hi (isNaN_of_isFinite hsmallf) (isZero_powerOfTwoUnits hsmall), fdiv_inf_finite hi hlargef,
      signBit_powerOfTwoUnits hsmall, signBit_powerOfTwoUnits hlarge]

end Sys2Proof.Machine
end

section
/-! CERTIFICATES. The statements about the arithmetic (40_numerics R100 to R105). -/

namespace Sys2Proof.Machine

/-- Settles O58: each operation rounds the signed magnitude of the exact real result, and the rounding picks the nearest. -/
theorem arithmeticRoundsOnceToNearestEven : Obligations.ArithmeticRoundsOnceToNearestEven :=
  fun _ _ ha hb => ⟨fadd_roundsTo ha hb, fsub_roundsTo ha hb, fmul_roundsTo ha hb, fdiv_roundsTo ha hb⟩

/-- Settles O59, case by case. -/
theorem arithmeticSpecialCases : Obligations.ArithmeticSpecialCases := by
  refine ⟨fun x => fadd_fneg_self, by decide +kernel, by decide +kernel, fun x y => fadd_fsub_inf_inf,
    fun x y => fadd_fsub_inf_finite, fun x y => fsub_eq_fadd_fneg, fun x y => isNaN_fmul_zero_inf, fun x y hx hy => ?_,
    fun x y hx hy => ?_, fun x y => isNaN_fdiv_zero_zero, fun x y hx h0 hy => ?_,
    fun x y => signBit_of_openNan_or (fmul_eq_openNan_or x y), fun x y => signBit_of_openNan_or (fdiv_eq_openNan_or x y),
    fun x y h => ⟨isNaN_fadd h, isNaN_fsub h, isNaN_fmul h, isNaN_fdiv h, fgt_flt_of_isNaN h⟩,
    fun x y => fgt_flt_iff_exactValue, fun x => fgt_flt_infinities, fgt_eq_flt_swap, fabs_toNat, fneg_toNat⟩
  · rw [fmul_inf_left hx (isNaN_of_isInf hy) (isZero_of_isInf hy)]
    exact ⟨isInf_withSign_infBits _, isNaN_fdiv_inf_inf hx hy⟩
  · have hyn := isNaN_of_isFinite hy
    rw [fdiv_inf_finite hx hy, fdiv_finite_inf hy hx]
    refine ⟨isInf_withSign_infBits _, isZero_withSign_zero _, fun h0 => ?_⟩
    rw [fmul_inf_left hx hyn h0, fmul_inf_right hyn h0 hx]
    exact ⟨isInf_withSign_infBits _, isInf_withSign_infBits _⟩
  · rw [fdiv_finite_zero hx h0 hy]
    exact isInf_withSign_infBits _

/-- Settles O60: `N` is the pattern of the power of two, and `INVN` that of its exact inverse. -/
theorem scalingByInvNIsDivisionByN : Obligations.ScalingByInvNIsDivisionByN := by
  intro e x _ he hx
  exact ⟨powerOfTwoUnits (126 + e), isFinite_powerOfTwoUnits (by omega), exactValue_powerOfTwoUnits (by omega),
    fmul_invN_eq_fdiv (by omega) hx⟩

end Sys2Proof.Machine
end

section
/-! SUPPORT. The mirror table, the position codes and the lookups of a channel map (41_channelmap R130 to R138). -/

namespace Sys2Proof.Machine

/-! ### Positions and their codes -/

/-- Mirroring twice gives the position back: the named pairs by the table of R131, the extension places because
`POS_EXT` is an involution (R132). -/
theorem mirror_mirror {c : Config} {p : Position} (hc : c.wf) (hp : positionAssigned c p = true) :
    mirror c (mirror c p) = p := by
  obtain ⟨-, -, -, -, -, hext⟩ := hc
  cases p with
  | ext k =>
    obtain ⟨m, hm⟩ := Option.isSome_iff_exists.1 hp
    simp only [mirror, hm, hext k m hm, Option.getD_some]
  | _ => rfl

/-- The code of a code's position is the code (R130). -/
theorem positionCode_of_positionOfCode {c : Config} {k : Nat} {p : Position} (h : positionOfCode c k = some p) :
    (positionCode p).toNat = k := by
  unfold positionOfCode at h
  split at h
  · rename_i hk
    interval_cases k <;> cases h <;> rfl
  · split at h
    · split at h
      · cases h
        simp only [positionCode, BitVec.toNat_ofNat]
        omega
      · cases h
    · cases h

/-- The codes of positions are below 24 (R130). -/
theorem positionOfCode_of_le (c : Config) {k : Nat} (hk : 24 ≤ k) : positionOfCode c k = none := by
  rw [positionOfCode, if_neg (by omega), dif_neg (by omega)]

/-! ### Lookups -/

section
variable {map : List Position} {p : Position} {i : Nat}

theorem find_eq_some_iff : find map p = some i ↔ map[i]? = some p ∧ ∀ j, j < i → map[j]? ≠ some p := by
  simp only [find, List.findIdx?_eq_some_iff_getElem, decide_eq_true_eq, List.getElem?_eq_some_iff, ne_eq, not_exists]
  constructor
  · rintro ⟨hi, hp, hleast⟩
    exact ⟨⟨hi, hp⟩, fun j hj _ => hleast j hj⟩
  · rintro ⟨⟨hi, hp⟩, hleast⟩
    exact ⟨hi, hp, fun j hj => hleast j hj (by omega)⟩

theorem find_eq_none_iff : find map p = none ↔ p ∉ map := by
  simp only [find, List.findIdx?_eq_none_iff, decide_eq_false_iff_not, List.forall_mem_ne']

/-- A position that occurs once is found where it occurs (R138). -/
theorem find_of_unique (hi : map[i]? = some p) (huniq : ∀ k, map[k]? = some p → k = i) : find map p = some i :=
  find_eq_some_iff.2 ⟨hi, fun j hj hjp => hj.ne (huniq j hjp)⟩

end

section
variable {s : State} {a : Arg} {p : Position}

/-- MAP_FIND of a position answers what `find` gives, in the words of R84, and changes nothing else (R136). -/
theorem exec_mapFind_of_position (hp : s.phase = .ready) (ha : positionOperand s.cfg a = some p) :
    exec (.mapFind a []) s = .next (answered s (optionWords (find s.map p))) := by
  refine require_of_true (decide_eq_true hp) ?_
  rw [ha]
  rfl

/-- MAP_FIND_MIRROR of a position answers what `find_mirror` gives, and changes nothing else (R137). -/
theorem exec_mapFindMirror_of_position (hp : s.phase = .ready) (ha : positionOperand s.cfg a = some p) :
    exec (.mapFindMirror a []) s = .next (answered s (optionWords (findMirror s.cfg s.map p))) := by
  refine require_of_true (decide_eq_true hp) ?_
  rw [ha]
  rfl

end

end Sys2Proof.Machine
end

section
/-! CERTIFICATES. The statements about the channel map (41_channelmap R130 to R138). -/

namespace Sys2Proof.Machine

/-- Settles O28: decoding a code gives an assigned position with that code, and each assigned position is decoded back. -/
theorem positionCodesFollowTheTable : Obligations.PositionCodesFollowTheTable := by
  refine ⟨fun c k p => ⟨fun h => ?_, ?_⟩, fun c k => positionOfCode_of_le c, fun c => rfl⟩
  · exact ⟨positionOfCode_assigned h, positionCode_of_positionOfCode h⟩
  · rintro ⟨hp, rfl⟩
    exact positionOfCode_positionCode hp

/-- Settles O29: `find` answers the first index that holds the position. -/
theorem findGivesTheSmallestIndex : Obligations.FindGivesTheSmallestIndex :=
  fun _ _ => ⟨fun _ => find_eq_some_iff, find_eq_none_iff⟩

/-- Settles O30: the mirror of the mirror is the position itself, and each of the two is found where it occurs. -/
theorem findMirrorRoundTripsOnPairs : Obligations.FindMirrorRoundTripsOnPairs := by
  intro c map i j p hc hp hi hj _ huniq huniqMirror
  have hback : findMirror c map (mirror c p) = find map p := by rw [findMirror, mirror_mirror hc hp]
  exact ⟨find_of_unique hj huniqMirror, hback.trans (find_of_unique hi huniq)⟩

/-- Settles O31: the operand is the position of its code, and the answer is what `find` gives for it or its mirror. -/
theorem lookupsAnswerTheSmallestIndex : Obligations.LookupsAnswerTheSmallestIndex := by
  intro s a p hp ha hpos
  have hoperand := (positionOperand_of_lt ha).trans hpos
  rw [exec_mapFind_of_position hp hoperand, exec_mapFindMirror_of_position hp hoperand, findMirror]
  refine ⟨fun hmem => ?_, fun i hi hleast => ?_, fun hmem => ?_, fun i hi hleast => ?_⟩
  · rw [find_eq_none_iff.2 hmem, optionWords]
  · rw [find_eq_some_iff.2 ⟨hi, hleast⟩, optionWords]
  · rw [find_eq_none_iff.2 hmem, optionWords]
  · rw [find_eq_some_iff.2 ⟨hi, hleast⟩, optionWords]

/-- Settles O27: the involution of R132, and the rows of the table of R131. -/
theorem mirrorIsAnInvolution : Obligations.MirrorIsAnInvolution := by
  intro c hc
  refine ⟨fun p => mirror_mirror hc, ?_, rfl, rfl, rfl, rfl, rfl, rfl⟩
  simp [mirror]

end Sys2Proof.Machine
end

section
/-! SUPPORT. The arithmetic of CONSTRUCT's steps 2 to 4: resampling, normalisation and the transform length
(42_construct R153 to R155). -/

namespace Sys2Proof.Machine

/-! ### Step 2: resampling (R153) -/

section
variable {c : Config} {r : Recording}

theorem resampleStep_of_same_rate (h : r.dstRate = 0 ∨ r.dstRate = r.srcRate) :
    resampleStep c r = .ok (r, r.srcRate) := by
  rw [resampleStep, if_neg (by tauto)]

theorem resampleStep_unavailable (h0 : r.dstRate ≠ 0) (hne : r.dstRate ≠ r.srcRate) (hc : c.hasResampler = false) :
    resampleStep c r = .error (.resamplingUnavailable r.dstRate) := by
  rw [resampleStep, if_pos ⟨h0, hne⟩, hc, if_neg Bool.false_ne_true]

theorem resampleStep_resampled (h0 : r.dstRate ≠ 0) (hne : r.dstRate ≠ r.srcRate) (hc : c.hasResampler = true) :
    resampleStep c r =
      .ok ({ r with frames := (resampled r.rows r.srcRate r.dstRate r.rows.length).1
                    rows := (resampled r.rows r.srcRate r.dstRate r.rows.length).2 }, r.dstRate) := by
  rw [resampleStep, if_pos ⟨h0, hne⟩, if_pos hc]

end

section
variable {rows : List (List F32)} {src dst : Word} {channels : Nat}

theorem resampled_rows_length : (resampled rows src dst channels).2.length = channels := by simp [resampled]

theorem length_of_mem_resampled {row : List F32} (h : row ∈ (resampled rows src dst channels).2) :
    row.length = (resampled rows src dst channels).1 := by
  obtain ⟨ch, -, rfl⟩ := List.mem_map.1 h
  simp [resampled]

theorem resampled_sample {ch t : Nat} (hch : ch < channels) (ht : t < (resampled rows src dst channels).1) :
    ((resampled rows src dst channels).2[ch]?.bind fun row => row[t]?) =
      some ((Config.resample rows src dst channels).2 ch t) := by
  have ht' : t < (Config.resample rows src dst channels).1 := ht
  simp [resampled, hch, ht']

end

/-! ### Step 3: normalisation (R154) -/

section
variable {x y z : F32}

theorem not_isNaN_of_fgt (h : fgt x y = true) : isNaN x = false ∧ isNaN y = false := by
  simp only [fgt, Bool.and_eq_true, Bool.not_eq_true'] at h
  exact h.1

theorem fgt_trans (hxy : fgt x y = true) (hyz : fgt y z = true) : fgt x z = true := by
  obtain ⟨hx, hy⟩ := not_isNaN_of_fgt hxy
  obtain ⟨-, hz⟩ := not_isNaN_of_fgt hyz
  rw [fgt_iff hx hy] at hxy
  rw [fgt_iff hy hz] at hyz
  exact (fgt_iff hx hz).2 (hyz.trans hxy)

end

section
variable (rows : List (List F32)) (frames : Nat)

theorem normalise_sample (c t : Nat) :
    ((normalise rows frames)[c]?.bind fun row => row[t]?) =
      (rows[c]?.bind fun row : List F32 => row[t]?).map fun x => fdiv x (fmul (hrirMax rows frames) headroom) := by
  simp only [normalise, List.getElem?_map]
  cases rows[c]? <;> simp

theorem normalise_length : (normalise rows frames).length = rows.length := List.length_map _

theorem normalise_row_length {l : Nat} (h : ∀ row ∈ rows, row.length = l) :
    ∀ row ∈ normalise rows frames, row.length = l := by
  simpa [normalise] using h

theorem frameSum_append (row : List F32) (t : Nat) :
    frameSum (rows ++ [row]) t = fadd (frameSum rows t) (fabs (row.getD t plusZero)) :=
  List.foldl_concat ..

/-- One frame more replaces the maximum by its sum when that is greater; a NaN sum is not (R154). -/
theorem hrirMax_succ :
    hrirMax rows (frames + 1) =
      if fgt (frameSum rows frames) (hrirMax rows frames) then frameSum rows frames else hrirMax rows frames := by
  rw [hrirMax, List.range_succ, List.foldl_concat]
  rfl

theorem hrirMax_eq_zero_or_sum :
    hrirMax rows frames = plusZero ∨ ∃ t, t < frames ∧ hrirMax rows frames = frameSum rows t := by
  induction frames with
  | zero => exact .inl rfl
  | succ n ih =>
    rw [hrirMax_succ]
    split
    · exact .inr ⟨n, n.lt_succ_self, rfl⟩
    · exact ih.imp_right fun ⟨t, ht, hmax⟩ => ⟨t, ht.trans n.lt_succ_self, hmax⟩

theorem isNaN_hrirMax : isNaN (hrirMax rows frames) = false := by
  induction frames with
  | zero => rfl
  | succ n ih =>
    rw [hrirMax_succ]
    split
    · exact (not_isNaN_of_fgt ‹_›).1
    · exact ih

/-- A later maximum is greater than an earlier one, so that no sum seen before exceeds it (R154). -/
theorem not_fgt_hrirMax : ∀ t, t < frames → fgt (frameSum rows t) (hrirMax rows frames) = false := by
  induction frames with
  | zero => exact fun t ht => absurd ht t.not_lt_zero
  | succ n ih =>
    intro t ht
    rw [hrirMax_succ]
    rw [Nat.lt_succ_iff_lt_or_eq] at ht
    split
    next hgt =>
      rcases ht with ht | rfl
      · exact Bool.eq_false_iff.2 fun h => Bool.eq_false_iff.1 (ih t ht) (fgt_trans h hgt)
      · simp [fgt]
    next hle =>
      rcases ht with ht | rfl
      · exact ih t ht
      · exact Bool.eq_false_iff.2 hle

end

/-! ### Step 4: the transform length (R155) -/

/-- No smaller power of two is at least `m` (R117). -/
theorem nextPow2_le_two_pow {m e : Nat} (h : m ≤ 2 ^ e) : nextPow2 m ≤ 2 ^ e := by
  unfold nextPow2
  split
  · exact Nat.one_le_two_pow
  · have hlog : Nat.log2 (m - 1) < e := (Nat.log2_lt (by omega)).2 (by omega)
    exact Nat.pow_le_pow_right (by decide) hlog

end Sys2Proof.Machine
end

section
/-! SUPPORT. The packet checks of CONSTRUCT in their order (42_construct R151). -/

namespace Sys2Proof.Machine

section
variable {c : Config} {w : Word} {ws : List Word}

/-- A position word with a high bit set, or whose code is unassigned, stops the decoding (R151). -/
theorem decodePositions_cons_bad (h : 256 ≤ w.toNat ∨ positionOfCode c w.toNat = none) :
    decodePositions c (w :: ws) = .error (.badOperand w) := by
  have hnone : (if w.toNat / 256 = 0 then positionOfCode c (w.toNat % 256) else none) = none := by
    split
    next hlow =>
      have hlt : w.toNat < 256 := by omega
      rw [Nat.mod_eq_of_lt hlt]
      exact h.resolve_left (by omega)
    next => rfl
  simp only [decodePositions, hnone]

theorem decodePositions_cons_good {p : Position} (hlt : w.toNat < 256) (hp : positionOfCode c w.toNat = some p) :
    decodePositions c (w :: ws) = (decodePositions c ws).map (p :: ·) := by
  simp only [decodePositions, Nat.div_eq_of_lt hlt, Nat.mod_eq_of_lt hlt, hp, if_true]
  cases decodePositions c ws <;> rfl

end

/-- The first position word that is none is the one refused (R151). -/
theorem decodePositions_of_first_bad {c : Config} {w : Word}
    (hw : 256 ≤ w.toNat ∨ positionOfCode c w.toNat = none) :
    ∀ {ws : List Word} {k : Nat}, ws[k]? = some w →
      (∀ j v, j < k → ws[j]? = some v → v.toNat < 256 ∧ positionOfCode c v.toNat ≠ none) →
      decodePositions c ws = .error (.badOperand w)
  | [], _, hk, _ => nomatch hk
  | v :: ws, 0, hk, _ => by
    obtain rfl := Option.some.inj hk
    exact decodePositions_cons_bad hw
  | v :: ws, k + 1, hk, hgood => by
    obtain ⟨hlt, hv⟩ := hgood 0 v k.succ_pos rfl
    obtain ⟨p, hp⟩ := Option.ne_none_iff_exists'.1 hv
    have ih := decodePositions_of_first_bad hw (ws := ws) hk fun j u hj hu => hgood (j + 1) u (Nat.succ_lt_succ hj) hu
    rw [decodePositions_cons_good hlt hp, ih]
    rfl

/-- `FMT[31:16]` is zero (R75). -/
theorem extract_high_half_eq_zero_iff (w : Word) : w.extractLsb' 16 16 = 0 ↔ w.toNat < 2 ^ 16 := by
  rw [← BitVec.toNat_inj, BitVec.extractLsb'_toNat, Nat.shiftRight_eq_div_pow]
  have hw := w.isLt
  simp only [BitVec.ofNat_eq_ofNat, BitVec.toNat_ofNat]
  omega

section
variable {c : Config} {l : Nat}

theorem decodeRecording_short : ∀ {d : List Word}, d.length < 4 → decodeRecording c l d = .error (.badLength 4)
  | [], _ | [_], _ | [_, _], _ | [_, _, _], _ => rfl
  | _ :: _ :: _ :: _ :: _, h => by simp at h; omega

variable {fmt cin src dst : Word} {rest : List Word}

theorem decodeRecording_of_length (h : rest.length ≠ cin.toNat + cin.toNat * l) :
    decodeRecording c l (fmt :: cin :: src :: dst :: rest) = .error (.badLength (4 + cin.toNat + cin.toNat * l)) := by
  rw [decodeRecording, if_neg]
  simp only [List.length_cons]
  omega

/-- A packet of the right length goes on to the check of `FMT` (R151). -/
theorem decodeRecording_of_format (hlen : rest.length = cin.toNat + cin.toNat * l) (h : 2 ^ 16 ≤ fmt.toNat) :
    decodeRecording c l (fmt :: cin :: src :: dst :: rest) = .error (.badOperand fmt) := by
  rw [decodeRecording, if_pos (by simp only [List.length_cons]; omega),
    if_neg (by rw [extract_high_half_eq_zero_iff]; omega)]

/-- A packet of the right length and a legal `FMT` goes on to its positions (R151). -/
theorem decodeRecording_of_positions {e : CoreError} (hlen : rest.length = cin.toNat + cin.toNat * l)
    (hfmt : fmt.toNat < 2 ^ 16) (h : decodePositions c (rest.take cin.toNat) = .error e) :
    decodeRecording c l (fmt :: cin :: src :: dst :: rest) = .error e := by
  rw [decodeRecording, if_pos (by simp only [List.length_cons]; omega),
    if_pos ((extract_high_half_eq_zero_iff fmt).2 hfmt), h]

end

section
variable {s : State} {a : Arg} {d : List Word}

/-- A packet that does not decode is refused before any step (R151, R161). -/
theorem exec_construct_of_undecoded {e : CoreError} (hp : s.phase = .empty)
    (h : decodeRecording s.cfg a.toNat d = .error e) :
    exec (.construct a d) s = .next (failedWith s (errorCode e) (errorInfo e)) := by
  refine require_of_true (decide_eq_true hp) ?_
  rw [h]
  rfl

/-- A packet whose steps all succeed commits what they built (R160). -/
theorem exec_construct_of_built {r : Recording} {b : Built} (hp : s.phase = .empty)
    (hr : decodeRecording s.cfg a.toNat d = .ok r) (hb : buildInstance s.cfg r = .ok b) :
    exec (.construct a d) s = .next (answered (s.commit b) []) := by
  refine require_of_true (decide_eq_true hp) ?_
  simp only [hr, hb]
  rfl

end

end Sys2Proof.Machine
end

section
/-! SUPPORT. When the steps of CONSTRUCT succeed, and what the slots of `IR` hold then (42_construct R156 to R159). -/

namespace Sys2Proof.Machine

/-- Step 6 finds the mirror of every channel when the map holds it (R158). -/
theorem resolveMirrors_of_mem {c : Config} {map : List Position} : ∀ {todo : List Position},
    (∀ p ∈ todo, mirror c p ∈ map) →
    ∃ ms, resolveMirrors c map todo = .ok ms ∧ todo.map (findMirror c map) = ms.map some
  | [], _ => ⟨[], rfl, rfl⟩
  | p :: ps, h => by
    obtain ⟨hp, hps⟩ := List.forall_mem_cons.1 h
    obtain ⟨m, hm⟩ := Option.ne_none_iff_exists'.1 (mt find_eq_none_iff.1 (not_not.2 hp))
    obtain ⟨ms, hok, hms⟩ := resolveMirrors_of_mem hps
    have hfind : findMirror c map p = some m := hm
    exact ⟨m :: ms, by simp only [resolveMirrors, hfind, hok], by simp only [List.map_cons, hfind, hms]⟩

section
variable {c : Config} {map todo : List Position} {ms : List Nat}

/-- The right-ear sources are channels of the map (R158). -/
theorem sources_lt (h : todo.map (findMirror c map) = ms.map some) : ∀ m ∈ ms, m < map.length := by
  intro m hm
  have hsome : some m ∈ todo.map (findMirror c map) := h ▸ List.mem_map_of_mem hm
  obtain ⟨p, -, hp⟩ := List.mem_map.1 hsome
  exact (List.getElem?_eq_some_iff.1 (find_eq_some_iff.1 hp).1).1

/-- The right-ear source of a channel is the smallest index that holds its mirror (R158, R134). -/
theorem source_of_channel {i m : Nat} {p : Position} (h : todo.map (findMirror c map) = ms.map some)
    (hp : todo[i]? = some p) (hm : map[m]? = some (mirror c p))
    (hleast : ∀ j, j < m → map[j]? ≠ some (mirror c p)) :
    ms[i]? = some m := by
  have hfind : findMirror c map p = some m := find_eq_some_iff.2 ⟨hm, hleast⟩
  have hi : some (findMirror c map p) = ms[i]?.map some := by
    rw [← List.getElem?_map, ← h, List.getElem?_map, hp, Option.map_some]
  rw [hfind] at hi
  simpa using hi.symm

end

section
variable {c : Config} {rows : List (List F32)} {frames n : Nat}

/-- Rows of the common length are padded as they are (R159). -/
theorem impulse_of_rows (h : ∀ row ∈ rows, row.length = frames) (src : Nat) :
    impulse rows frames n src = rows.getD src [] ++ zeros (n - frames) := by
  have htake : (rows.getD src []).take frames = rows.getD src [] := by
    rw [List.getD_eq_getElem?_getD]
    cases hrow : rows[src]? with
    | none => exact List.take_nil
    | some row => exact List.take_of_length_le (h row (List.mem_of_getElem? hrow)).le
  rw [impulse, htake]

theorem initIr_eq_ok_iff {buf : List F32} {y : List C32} : initIr c n buf = .ok y ↔ bkFwd c n buf = some y := by
  unfold initIr
  split <;> simp_all

theorem initIr_of_transform {buf : List F32} (h : bkFwd c n buf ≠ none) : ∃ y, initIr c n buf = .ok y := by
  obtain ⟨y, hy⟩ := Option.ne_none_iff_exists'.1 h
  exact ⟨y, initIr_eq_ok_iff.2 hy⟩

/-- Step 7 succeeds when the transform of every impulse does (R159). -/
theorem storeImpulses_of_transforms {k : Nat} (hfwd : ∀ i, i < k → bkFwd c n (impulse rows frames n i) ≠ none) :
    ∀ {ms : List Nat} {i : Nat}, i + ms.length ≤ k → (∀ m ∈ ms, m < k) →
      ∃ ir, storeImpulses c rows frames n i ms = .ok ir
  | [], _, _, _ => ⟨[], rfl⟩
  | m :: ms, i, hi, hm => by
    rw [List.length_cons] at hi
    obtain ⟨hm, hms⟩ := List.forall_mem_cons.1 hm
    obtain ⟨left, hl⟩ := initIr_of_transform (hfwd i (by omega))
    obtain ⟨right, hr⟩ := initIr_of_transform (hfwd m hm)
    obtain ⟨rest, hrest⟩ := storeImpulses_of_transforms hfwd (i := i + 1) (by omega) hms
    exact ⟨left :: right :: rest, by simp only [storeImpulses, hl, hr, hrest]⟩

/-- The two slots of each channel: its own spectrum, and that of its right-ear source (R159). -/
theorem storeImpulses_slots : ∀ {ms : List Nat} {i : Nat} {ir : List (List C32)},
    storeImpulses c rows frames n i ms = .ok ir → ∀ {j m : Nat}, ms[j]? = some m →
      ir[2 * j]? = bkFwd c n (impulse rows frames n (i + j)) ∧ ir[2 * j + 1]? = bkFwd c n (impulse rows frames n m)
  | [], _, _, _, _, _, hj => nomatch hj
  | m :: ms, i, ir, h, j, m', hj => by
    unfold storeImpulses at h
    split at h
    · cases h
    rename_i left hl
    split at h
    · cases h
    rename_i right hr
    split at h
    · cases h
    rename_i rest hrest
    cases h
    cases j with
    | zero =>
      obtain rfl := Option.some.inj hj
      exact ⟨(initIr_eq_ok_iff.1 hl).symm, (initIr_eq_ok_iff.1 hr).symm⟩
    | succ j =>
      have ih := storeImpulses_slots hrest (j := j) hj
      rwa [Nat.add_right_comm] at ih

end

theorem fromPositions_of_le {pos : List Position} (h : pos.length ≤ maxChannels) : fromPositions pos = .ok pos :=
  if_neg (Nat.not_lt.2 h)

/-- The seven steps in order, each of which succeeds (R150). -/
theorem buildInstance_of_steps {c : Config} {r : Recording} {rate : Word} {frames : Nat} {rows : List (List F32)}
    {ms : List Nat} {ir : List (List C32)} (hformat : r.encoding = 1 ∧ r.bits = 32)
    (hresample : resampleStep c r = .ok ({ r with frames := frames, rows := rows }, rate))
    (hmap : r.positions.length ≤ maxChannels) (hmax : planFftLen c frames ≤ c.maxFftLen)
    (hplan : bkPlan c (planFftLen c frames) r.positions.length = true)
    (hmirrors : resolveMirrors c r.positions r.positions = .ok ms)
    (hstore : storeImpulses c (normalise rows frames) frames (planFftLen c frames) 0 ms = .ok ir) :
    buildInstance c r =
      .ok { fftLen := planFftLen c frames, sampleRate := rate, map := r.positions, ir := ir } := by
  have hfmt : checkFormat r = .ok () := if_pos hformat
  have hnew : engineNew c r.positions.length (planFftLen c frames) = .ok () := if_pos ⟨hmax, hplan⟩
  simp only [buildInstance, hfmt, hresample, bind, Except.bind, fromPositions_of_le hmap, hnew, hmirrors, hstore]

end Sys2Proof.Machine
end

section
/-! CERTIFICATES. The statements about CONSTRUCT (42_construct R150 to R161). -/

namespace Sys2Proof.Machine

/-- Settles O33: normalisation maps each sample, and each frame keeps what is greatest of the sums before it. -/
theorem normalisationFollowsTheFormula : Obligations.NormalisationFollowsTheFormula := by
  intro rows frames
  refine ⟨normalise_sample rows frames, fun _ => rfl, fun row t x hx => ?_, hrirMax_eq_zero_or_sum rows frames,
    isNaN_hrirMax rows frames, not_fgt_hrirMax rows frames⟩
  rw [frameSum_append, List.getD_eq_getElem?_getD, hx]
  rfl

/-- Settles O34: the planned length is `next_pow2` of `L + B + 1`. -/
theorem fftLenIsTheSmallestPowerOfTwo : Obligations.FftLenIsTheSmallestPowerOfTwo :=
  fun _ _ => ⟨nextPow2_isPow _, le_nextPow2 _, fun _ => nextPow2_le_two_pow⟩

/-- Settles O35: the three cases of step 2. -/
theorem resamplingHappensExactlyWhenNeeded : Obligations.ResamplingHappensExactlyWhenNeeded :=
  fun _ _ => ⟨resampleStep_of_same_rate, resampleStep_unavailable, fun h0 hne hc =>
    ⟨_, resampleStep_resampled h0 hne hc, rfl, resampled_rows_length, rfl, fun _ => length_of_mem_resampled,
      fun _ _ => resampled_sample⟩⟩

/-- Settles O36: each check that fails is the first one to fail. -/
theorem constructChecksItsPacketInOrder : Obligations.ConstructChecksItsPacketInOrder := by
  intro s l hp
  refine ⟨fun d hd => exec_construct_of_undecoded hp (decodeRecording_short hd), fun fmt cin src dst rest => ?_⟩
  refine ⟨fun hlen => exec_construct_of_undecoded hp (decodeRecording_of_length hlen), fun hlen =>
    ⟨fun hfmt => exec_construct_of_undecoded hp (decodeRecording_of_format hlen hfmt), ?_⟩⟩
  intro hfmt k w hk hw hbad hgood
  have htake : ∀ {j v}, j < cin.toNat → ((rest.take cin.toNat)[j]? = some v ↔ rest[j]? = some v) := by
    intro j v hj
    rw [List.getElem?_take_of_lt hj]
  have hpos : decodePositions s.cfg (rest.take cin.toNat) = .error (.badOperand w) :=
    decodePositions_of_first_bad hbad ((htake hk).2 hw) fun j v hj hv => hgood j v hj ((htake (hj.trans hk)).1 hv)
  exact exec_construct_of_undecoded hp (decodeRecording_of_positions hlen hfmt hpos)

/-- Settles O38, by the ways in which CONSTRUCT fails and ends well. -/
theorem failedConstructLeavesNoInstance : Obligations.FailedConstructLeavesNoInstance := by
  intro s t l d hp h
  cases exec_ends h with
  | @failed e u hf =>
    refine .inr ⟨errorCode_ne_zero e, ?_⟩
    cases hf <;> rfl
  | done hd =>
    cases hd with
    | construct => exact .inl ⟨rfl, rfl, rfl⟩
    | read hi => exact absurd hi Bool.false_ne_true

/-- Settles O32: the packet decodes to its operands, the seven steps succeed on them, and what they built is
committed. -/
theorem constructBuildsTheInstance : Obligations.ConstructBuildsTheInstance := by
  intro s src dst rate pos data rows l frames n hp hlen hrow hl hpos hassigned hmirror hrate hw hn hmax hplan hfwd
  obtain rfl : n = planFftLen s.cfg frames := hn
  have hdecode : decodeRecording s.cfg (BitVec.ofNat 24 l).toNat (constructPayload 1 32 src dst pos data) = .ok
      { encoding := 1, bits := 32, srcRate := src, dstRate := dst, positions := pos, frames := l, rows := data } := by
    rw [BitVec.toNat_ofNat, Nat.mod_eq_of_lt hl]
    exact decodeRecording_constructPayload hlen hrow (by omega) hassigned
  have himpulse := impulse_of_rows (n := planFftLen s.cfg frames) (normalise_row_length rows frames (hw.shape hrow).2)
  obtain ⟨ms, hms, hsources⟩ := resolveMirrors_of_mem hmirror
  have hmsLen := resolveMirrors_length hms
  obtain ⟨ir, hir⟩ := storeImpulses_of_transforms (fun i hi => himpulse i ▸ hfwd i hi) (i := 0) (by omega)
    (sources_lt hsources)
  have hexec := exec_construct_of_built hp hdecode
    (buildInstance_of_steps ⟨rfl, rfl⟩ (resampleStep_working hrate hw) hpos hmax hplan hms hir)
  refine ⟨_, hexec, rfl, ?_, fun i p m hi hm hleast => ?_⟩
  · exact (storeImpulses_lengths hir).1.trans (by rw [hmsLen])
  · have hslots := storeImpulses_slots hir (source_of_channel hsources hi hm hleast)
    rwa [himpulse, himpulse, Nat.zero_add] at hslots

end Sys2Proof.Machine
end

section
/-! SUPPORT. What the Convolution Engine computes for one channel, and how the commands that run it end (43_engine R180 to
R182, 44_raw_filter R196). -/

namespace Sys2Proof.Machine

/-- A spectrum whose bins are those of the complex product is the product that the engine forms (R104, R180). -/
theorem eq_zipWith_cmul {n : Nat} {spec ir p : List C32} (hspec : spec.length = n) (hir : ir.length = n)
    (hp : p.length = n)
    (hbins : ∀ (k : Nat) (x y : C32), spec[k]? = some x → ir[k]? = some y → p[k]? = some (cmul x y)) :
    p = List.zipWith cmul spec ir := by
  refine List.ext_getElem (by simp [hspec, hir, hp]) fun k hk _ => ?_
  have hbin := hbins k _ _ (List.getElem?_eq_getElem (by omega)) (List.getElem?_eq_getElem (by omega))
  rw [List.getElem_zipWith]
  exact (List.getElem?_eq_some_iff.1 hbin).2

section
variable {s : State} {old y : List F32}

/-- An ear's block `old` with the last `B` samples of `y`, each scaled by `1/N`, added to it (R180). -/
def addTail (s : State) (old y : List F32) : List F32 :=
  List.zipWith (fun a x => fadd a (fmul x (invN s.fftLen))) old (y.drop (s.fftLen - s.cfg.blockSize))

theorem addTail_sample {j : Nat} {a x : F32} (ha : old[j]? = some a)
    (hx : y[s.fftLen - s.cfg.blockSize + j]? = some x) :
    (addTail s old y)[j]? = some (fadd a (fmul x (invN s.fftLen))) := by
  rw [addTail, List.getElem?_zipWith, ha, List.getElem?_drop, hx]

/-- An ear whose inverse transform ends well adds the tail of what it gives (R180). -/
theorem processEar_of_inverse {slot : Nat} {spec ir : List C32} (hB : s.cfg.blockSize ≤ s.fftLen)
    (hslot : s.ir[slot]? = some ir) (hlen : ir.length = s.fftLen / 2 + 1) (hold : old.length = s.cfg.blockSize)
    (hy : bkInv s.cfg s.fftLen (List.zipWith cmul spec ir) = some y) :
    processEar s slot spec old = .ok (addTail s old y) := by
  rw [processEar_of_slot hB hslot hlen hold, hy]
  rfl

end

section
variable {s : State} {ch : Nat} {w : List F32} {acc : Acc}

/-- A channel whose three transforms end well adds a tail to each ear (R180). -/
theorem processChannel_of_transforms {spec left right : List C32} {yl yr : List F32} (hm : Memory.wf s)
    (hB : s.cfg.blockSize ≤ s.fftLen) (ha : acc.Fits s.cfg.blockSize) (hf : bkFwd s.cfg s.fftLen w = some spec)
    (hl : s.ir[2 * ch]? = some left) (hr : s.ir[2 * ch + 1]? = some right)
    (hyl : bkInv s.cfg s.fftLen (List.zipWith cmul spec left) = some yl)
    (hyr : bkInv s.cfg s.fftLen (List.zipWith cmul spec right) = some yr) :
    processChannel s ch w acc = .ok ⟨addTail s acc.left yl, addTail s acc.right yr⟩ := by
  obtain ⟨-, -, -, -, hslot, -⟩ := hm
  obtain ⟨hal, har⟩ := ha
  have hleft := processEar_of_inverse hB hl (hslot _ (List.mem_of_getElem? hl)) hal hyl
  have hright := processEar_of_inverse hB hr (hslot _ (List.mem_of_getElem? hr)) har hyr
  rw [processChannel, hf, Nat.mul_comm ch 2]
  simp only [hleft, hright]

/-- A forward transform that fails ends the channel, whatever the rest of the state holds (R180, R181). -/
theorem processChannel_of_forward_fails (h : bkFwd s.cfg s.fftLen w = none) :
    processChannel s ch w acc = .error (.backend .runForward) := by
  rw [processChannel, h]

end

section
variable {s : State} {a : Arg} {w : List Word} {st : Stage}

/-- A run-time failure of the backend is answered with its stage and leaves `ACC` and scratch unspecified (R181, R264). -/
theorem engineStopped_backend (s : State) (st : Stage) :
    engineStopped (.backend st) s =
      .next (failedWith s.loseAcc.loseScratch 0x05 (BitVec.ofNat 32 (stageNumber st))) := rfl

/-- The three checks of PROCESS_CHANNEL hand on to the engine (R182). -/
theorem exec_processChannel_of_ok {acc : Acc} (hp : s.phase = .ready) (ha : a.toNat < 256)
    (hc : a.toNat < s.channelCount) (hw : w.length = s.fftLen) (h : processChannel s a.toNat w s.acc = .ok acc) :
    exec (.processChannel a w) s = .next (answered (s.setAcc acc).loseScratch []) := by
  refine require_of_true (decide_eq_true hp) (require_of_true (channelOperand_iff.2 ⟨ha, hc⟩)
    (require_of_true (decide_eq_true hw) ?_))
  rw [argLow_of_lt ha, h]
  rfl

theorem exec_processChannel_of_backend (hp : s.phase = .ready) (ha : a.toNat < 256) (hc : a.toNat < s.channelCount)
    (hw : w.length = s.fftLen) (h : processChannel s a.toNat w s.acc = .error (.backend st)) :
    exec (.processChannel a w) s =
      .next (failedWith s.loseAcc.loseScratch 0x05 (BitVec.ofNat 32 (stageNumber st))) := by
  refine require_of_true (decide_eq_true hp) (require_of_true (channelOperand_iff.2 ⟨ha, hc⟩)
    (require_of_true (decide_eq_true hw) ?_))
  rw [argLow_of_lt ha, h]
  exact engineStopped_backend s st

/-- RAW_TRANSFORM of one full window a channel runs the engine on these windows (R77, R196). -/
theorem exec_rawTransform_of_backend {ws : List (List F32)} (hp : s.phase = .ready)
    (hlen : ws.length = s.channelCount) (hw : ∀ w ∈ ws, w.length = s.fftLen)
    (h : processChannels s 0 ws s.acc = .error (.backend st)) :
    exec (.rawTransform 0 ws.flatten) s =
      .next (failedWith s.loseAcc.loseScratch 0x05 (BitVec.ofNat 32 (stageNumber st))) := by
  have hpayload : ws.flatten.length = s.channelCount * s.fftLen := hlen ▸ length_flatten_of_rows hw
  refine require_of_true (decide_eq_true hp) (require_of_true rfl (require_of_true (decide_eq_true hpayload) ?_))
  rw [← hlen, rawWindows_flatten ws hw, h]
  exact engineStopped_backend s st

end

end Sys2Proof.Machine
end

section
/-! CERTIFICATES. The statements about the Convolution Engine (43_engine R180 to R182). -/

namespace Sys2Proof.Machine

/-- Settles O39: the given products are the engine's own, so each ear adds the tail of the given inverse transform. -/
theorem processChannelAddsTheChannelsBlock : Obligations.ProcessChannelAddsTheChannelsBlock := by
  intro s a w spec left right pl pr yl yr hs hp ha hc hw hf hl hr product hpl hpr hyl hyr
  obtain ⟨hplLen, hplBins⟩ := hpl
  obtain ⟨hprLen, hprBins⟩ := hpr
  have ⟨_, _, _, _, hslot, _⟩ := hs.memory
  have hspec := bkFwd_length hf
  obtain rfl := eq_zipWith_cmul hspec (hslot _ (List.mem_of_getElem? hl)) hplLen hplBins
  obtain rfl := eq_zipWith_cmul hspec (hslot _ (List.mem_of_getElem? hr)) hprLen hprBins
  have hrun := processChannel_of_transforms hs.memory (hs.blockSize_le hp) hs.acc_fits hf hl hr hyl hyr
  obtain ⟨hleft, hright⟩ := processChannel_fits hrun
  exact ⟨_, exec_processChannel_of_ok hp ha hc hw hrun, rfl, hleft, hright,
    fun j _ al ar xl xr hal har hxl hxr => ⟨addTail_sample hal hxl, addTail_sample har hxr⟩⟩

/-- Settles O40: the engine ends with the stage of the transform that fails, and the command answers that stage. -/
theorem processChannelReportsABackendFailure : Obligations.ProcessChannelReportsABackendFailure := by
  intro s hp fails
  refine ⟨fun a w ha hc hw => ⟨fun hf => ?_, fun stage hs hfails => ?_⟩,
    fun ws c stage hs hlen hw ⟨hfails, hfirst⟩ => ?_⟩
  · exact ⟨_, exec_processChannel_of_backend hp ha hc hw (processChannel_of_forward_fails hf), rfl⟩
  · obtain ⟨st, hrun, rfl⟩ := processChannel_of_fails hs.memory (hs.blockSize_le hp) hs.acc_fits hfails
    exact ⟨_, exec_processChannel_of_backend hp ha hc hw hrun, rfl⟩
  · obtain ⟨st, hrun, rfl⟩ := processChannels_of_fails hs.memory (hs.blockSize_le hp) ws 0 c s.acc (by omega)
      hs.acc_fits (by simpa only [Nat.zero_add] using hfails) (by simpa only [Nat.zero_add] using hfirst)
    exact ⟨_, exec_rawTransform_of_backend hp hlen hw hrun, rfl⟩

end Sys2Proof.Machine
end

section
/-! SUPPORT. What the commands of the Raw Filter answer, and RAW_TRANSFORM as one PROCESS_CHANNEL per channel
(44_raw_filter R195 to R197, R206, 30_encoding R89). -/

namespace Sys2Proof.Machine

section
variable {s t : State} {i : Instr} {is : List Instr}

/-- A command that answers a next state hands this state on to the commands after it. -/
theorem execAll_cons_of_next (h : exec i s = .next t) : execAll (i :: is) s = execAll is t := by
  rw [execAll, h]

/-- ACC_ZERO zeroes the accumulators and changes nothing else (R195). -/
theorem exec_accZero (hp : s.phase = .ready) :
    exec (.accZero 0 []) s = .next (answered (s.setAcc (Acc.zeroed s.cfg.blockSize)) []) :=
  require_of_true (decide_eq_true hp) rfl

/-- ACC_READ answers the two blocks of an accumulator of the right form (R197). -/
theorem exec_accRead (hp : s.phase = .ready) (ha : s.acc.Fits s.cfg.blockSize) :
    exec (.accRead 0 []) s = .next (answered s (s.acc.left ++ s.acc.right)) := by
  obtain ⟨hl, hr⟩ := ha
  have hleft : memRead s.acc.left 0 s.cfg.blockSize = some s.acc.left := hl ▸ memRead_zero_length _
  have hright : memRead s.acc.right 0 s.cfg.blockSize = some s.acc.right := hr ▸ memRead_zero_length _
  refine require_of_true (decide_eq_true hp) (require_of_true rfl (require_of_true rfl ?_))
  rw [hleft, hright]
  rfl

/-- RAW_TRANSFORM of windows on which the engine ends well leaves what the engine gives (R77, R196). -/
theorem exec_rawTransform_of_ok {ws : List (List F32)} {acc : Acc} (hp : s.phase = .ready)
    (hlen : ws.length = s.channelCount) (hw : ∀ w ∈ ws, w.length = s.fftLen)
    (h : processChannels s 0 ws s.acc = .ok acc) :
    exec (.rawTransform 0 ws.flatten) s = .next (answered (s.setAcc acc).loseScratchIfUsed []) := by
  have hpayload : ws.flatten.length = s.channelCount * s.fftLen := hlen ▸ length_flatten_of_rows hw
  refine require_of_true (decide_eq_true hp) (require_of_true rfl (require_of_true (decide_eq_true hpayload) ?_))
  rw [← hlen, rawWindows_flatten ws hw, h]
  rfl

/-- A live filter has at most 24 channels (R175). -/
theorem State.Inv.channelCount_le (hs : s.Inv) (hp : s.phase = .ready) : s.channelCount ≤ 24 := by
  obtain ⟨-, -, hready, -⟩ := hs
  obtain ⟨-, -, -, hC, -⟩ := hready hp
  exact hC

end

/-! ### One PROCESS_CHANNEL per channel -/

/-- One PROCESS_CHANNEL per window of `ws`, in order, the first on channel `ch` (R89). -/
def channelCommands (ch : Nat) (ws : List (List F32)) : List Instr :=
  ws.mapIdx fun c w => assemble (.processChannel (BitVec.ofNat 8 (ch + c)) w)

theorem channelCommands_cons (ch : Nat) (w : List F32) (ws : List (List F32)) :
    channelCommands ch (w :: ws) =
      .processChannel ((BitVec.ofNat 8 ch).setWidth 24) w :: channelCommands (ch + 1) ws := by
  simp only [channelCommands, List.mapIdx_cons, assemble, Nat.add_zero, Nat.add_assoc, Nat.add_comm 1]

/-- The commands run the engine's loop over the channels: each leaves in `ACC` what the next begins with, and the engine
reads nothing else that they change (R180, R196). -/
theorem execAll_channelCommands {acc : Acc} : ∀ {ws : List (List F32)} {ch : Nat} {s : State}, s.phase = .ready →
    ch + ws.length ≤ s.channelCount → s.channelCount ≤ 24 → (∀ w ∈ ws, w.length = s.fftLen) →
    processChannels s ch ws s.acc = .ok acc → ∃ u, execAll (channelCommands ch ws) s = .next u ∧ u.acc = acc
  | [], _, s, _, _, _, _, h => ⟨s, rfl, Except.ok.inj h⟩
  | w :: ws, ch, s, hp, hch, hC, hw, h => by
    obtain ⟨hwlen, hws⟩ := List.forall_mem_cons.1 hw
    rw [List.length_cons] at hch
    have hnumber : ((BitVec.ofNat 8 ch).setWidth 24).toNat = ch := by
      rw [BitVec.toNat_setWidth, BitVec.toNat_ofNat]
      omega
    rw [processChannels] at h
    cases hrun : processChannel s ch w s.acc with
    | error e =>
      rw [hrun] at h
      cases h
    | ok acc' =>
      rw [hrun] at h
      have hexec := exec_processChannel_of_ok hp (by omega) (by omega) hwlen (hnumber.symm ▸ hrun)
      have hnext := processChannels_congr (s := answered (s.setAcc acc').loseScratch []) (u := s) rfl rfl rfl ws
        (ch + 1) acc'
      rw [channelCommands_cons, execAll_cons_of_next hexec]
      exact execAll_channelCommands hp (by omega : ch + 1 + ws.length ≤ s.channelCount) hC hws (hnext.trans h)

/-! ### What RAW_TRANSFORM reads -/

/-- If `r` goes on from `s`, then `r'` goes on from `u` with the same response, and with the same `ACC` unless the
response is `TransformBackendFailure`, which leaves `ACC` unspecified (R181, R206). -/
def SameAnswer (s u : State) (r r' : Result) : Prop :=
  ∀ t, r = .next t → ∃ t' p, r' = .next t' ∧ t.hostOut = s.hostOut ++ [p] ∧ t'.hostOut = u.hostOut ++ [p] ∧
    (p.code ≠ 0x05 → t'.acc = t.acc)

section
variable {s u : State}

theorem sameAnswer_raiseError (e : CoreError) (h : s.acc = u.acc) :
    SameAnswer s u (raiseError e s) (raiseError e u) := by
  intro t ht
  obtain rfl := raiseError_next.1 ht
  exact ⟨_, _, rfl, rfl, rfl, fun _ => h.symm⟩

theorem sameAnswer_require (c : Bool) (e : CoreError) {k k' : Result} (h : s.acc = u.acc) (hk : SameAnswer s u k k') :
    SameAnswer s u (require c e s k) (require c e u k') := by
  cases c with
  | false => exact sameAnswer_raiseError e h
  | true => exact hk

theorem sameAnswer_engineStopped (e : EngineStop) : SameAnswer s u (engineStopped e s) (engineStopped e u) := by
  intro t ht
  cases e with
  | noSuchElement => cases ht
  | backend st =>
    obtain rfl := raiseError_next.1 ht
    exact ⟨_, _, rfl, rfl, rfl, fun hcode => absurd (errorResponse_code _) hcode⟩

theorem sameAnswer_rawTransform_ok (acc : Acc) :
    SameAnswer s u (respond [] (s.setAcc acc).loseScratchIfUsed) (respond [] (u.setAcc acc).loseScratchIfUsed) := by
  intro t ht
  obtain rfl := respond_next.1 ht
  exact ⟨_, okResponse [], rfl, by simp, by simp, fun _ => by simp⟩

end

end Sys2Proof.Machine
end

section
/-! SUPPORT. Zeros through the engine: under `BK-ZERO` a window of zeros adds nothing to accumulators of `+0.0`
(44_raw_filter R208, 43_engine R184). -/

namespace Sys2Proof.Machine

section
variable {x y : F32}

theorem roundUnits_zero (q : Nat) : roundUnits 0 q = 0 := by
  simp [roundUnits, divNearestEven]

/-- A zero and a finite value have a zero for a product, of either sign. -/
theorem isZero_fmul_of_left (hx : isZero x = true) (hy : isFinite y = true) : isZero (fmul x y) = true := by
  have hunits : magUnits x = 0 := Nat.eq_zero_of_not_pos fun h => ((magUnits_pos_iff x).1 h).ne' (of_decide_eq_true hx)
  rw [fmul_of_isFinite (isFinite_of_isZero hx) hy, hunits, Nat.zero_mul, roundUnits_zero]
  exact isZero_withSign_zero _

/-- `+0.0` and a zero of either sign have the sum `+0.0` (R101). -/
theorem fadd_plusZero_of_isZero (hx : isZero x = true) : fadd plusZero x = plusZero := by
  rcases isZero_iff.1 hx with rfl | rfl <;> decide +kernel

/-- A product of components with a spectrum of zeros has components that are zeros (R104). -/
theorem zeroSpectrum_zipWith_cmul {spec ir : List C32} (hz : zeroSpectrum spec) (hf : finiteSpectrum ir) :
    zeroSpectrum (List.zipWith cmul spec ir) := by
  intro b hb
  obtain ⟨k, hk, rfl⟩ := List.mem_iff_getElem.1 hb
  rw [List.getElem_zipWith]
  obtain ⟨hspec, hir⟩ := lt_min_iff.1 (List.length_zipWith ▸ hk)
  obtain ⟨hre, him⟩ := hz _ (List.getElem_mem hspec)
  obtain ⟨fre, fim⟩ := hf _ (List.getElem_mem hir)
  exact ⟨fsub_zero (isZero_fmul_of_left hre fre) (isZero_fmul_of_left him fim),
    fadd_zero (isZero_fmul_of_left hre fim) (isZero_fmul_of_left him fre)⟩

end

section
variable {s : State}

/-- A live filter stays well-formed when its accumulators get other contents of the same form. -/
theorem State.Inv.setAcc {a : Acc} (hs : s.Inv) (hp : s.phase = .ready) (ha : a.Fits s.cfg.blockSize) :
    (s.setAcc a).Inv :=
  hs.of_sameFilter hp rfl ⟨rfl, rfl, rfl, rfl, rfl, rfl⟩ (setAcc_wf hs.memory ha)

/-- The scale `1/N` of a live filter is finite (R105, R34 a). -/
theorem State.Inv.isFinite_invN (hs : s.Inv) (hp : s.phase = .ready) : isFinite (invN s.fftLen) = true := by
  obtain ⟨⟨-, -, -, hmax, -⟩, -, hready, -⟩ := hs
  obtain ⟨hpow, -, hle, -⟩ := hready hp
  have hlt : 2 ^ Nat.log2 s.fftLen < 2 ^ 32 := by omega
  have hlog : Nat.log2 s.fftLen < 32 := (Nat.pow_lt_pow_iff_right (by decide)).1 hlt
  rw [← hpow, invN_two_pow (by omega)]
  exact isFinite_powerOfTwoUnits (by omega)

/-- A tail of zeros leaves a block of `+0.0` as it is. -/
theorem addTail_zeros {y : List F32} (hB : s.cfg.blockSize ≤ s.fftLen) (hN : isFinite (invN s.fftLen) = true)
    (hlen : y.length = s.fftLen) (hy : ∀ v ∈ y, isZero v = true) :
    addTail s (zeros s.cfg.blockSize) y = zeros s.cfg.blockSize := by
  refine List.eq_replicate_iff.2 ⟨by simp [addTail, hlen]; omega, fun v hv => ?_⟩
  obtain ⟨j, hj, rfl⟩ := List.mem_iff_getElem.1 hv
  simp only [addTail, List.getElem_zipWith, zeros, List.getElem_replicate, List.getElem_drop]
  exact fadd_plusZero_of_isZero (isZero_fmul_of_left (hy _ (List.getElem_mem _)) hN)

/-- The inverse transform of a product with a spectrum of zeros is all zeros (R111). -/
theorem bkInv_of_zeroSpectrum {spec ir : List C32} (htotal : BkTotal s.cfg s.fftLen) (hzero : BkZero s.cfg s.fftLen)
    (hspec : spec.length = s.fftLen / 2 + 1) (hir : ir.length = s.fftLen / 2 + 1) (hz : zeroSpectrum spec)
    (hf : finiteSpectrum ir) :
    ∃ y, bkInv s.cfg s.fftLen (List.zipWith cmul spec ir) = some y ∧ y.length = s.fftLen ∧
      ∀ v ∈ y, isZero v = true := by
  obtain ⟨-, hinv⟩ := htotal
  obtain ⟨-, hinvZero⟩ := hzero
  have hlen : (List.zipWith cmul spec ir).length = s.fftLen / 2 + 1 := by simp [hspec, hir]
  obtain ⟨y, hy⟩ := Option.ne_none_iff_exists'.1 (hinv _ hlen)
  exact ⟨y, hy, bkInv_length hy, hinvZero _ hlen (zeroSpectrum_zipWith_cmul hz hf) y hy⟩

/-- A window of zeros leaves accumulators of `+0.0` as they are (R184). -/
theorem processChannel_of_zeros {ch : Nat} {w : List F32} (hs : s.Inv) (hp : s.phase = .ready)
    (htotal : BkTotal s.cfg s.fftLen) (hzero : BkZero s.cfg s.fftLen) (hfin : ∀ slot ∈ s.ir, finiteSpectrum slot)
    (hch : ch < s.channelCount) (hw : w.length = s.fftLen) (hv : ∀ v ∈ w, isZero v = true) :
    processChannel s ch w (Acc.zeroed s.cfg.blockSize) = .ok (Acc.zeroed s.cfg.blockSize) := by
  obtain ⟨spec, hspec⟩ := Option.ne_none_iff_exists'.1 (htotal.1 w hw)
  have hz := hzero.1 w hw hv spec hspec
  have hB := hs.blockSize_le hp
  have hN := hs.isFinite_invN hp
  have ⟨_, _, _, hir, hslot, _⟩ := hs.memory
  have hl : 2 * ch < s.ir.length := by omega
  have hr : 2 * ch + 1 < s.ir.length := by omega
  have hleft := List.getElem_mem hl
  have hright := List.getElem_mem hr
  obtain ⟨yl, hyl, hyllen, hylz⟩ :=
    bkInv_of_zeroSpectrum htotal hzero (bkFwd_length hspec) (hslot _ hleft) hz (hfin _ hleft)
  obtain ⟨yr, hyr, hyrlen, hyrz⟩ :=
    bkInv_of_zeroSpectrum htotal hzero (bkFwd_length hspec) (hslot _ hright) hz (hfin _ hright)
  rw [processChannel_of_transforms hs.memory hB (zeroed_fits _) hspec (List.getElem?_eq_getElem hl)
    (List.getElem?_eq_getElem hr) hyl hyr, Acc.zeroed_left, Acc.zeroed_right, addTail_zeros hB hN hyllen hylz,
    addTail_zeros hB hN hyrlen hyrz, Acc.zeroed]

theorem processChannels_of_zeros (hs : s.Inv) (hp : s.phase = .ready) (htotal : BkTotal s.cfg s.fftLen)
    (hzero : BkZero s.cfg s.fftLen) (hfin : ∀ slot ∈ s.ir, finiteSpectrum slot) :
    ∀ (ws : List (List F32)) (ch : Nat), ch + ws.length ≤ s.channelCount →
      (∀ w ∈ ws, w.length = s.fftLen ∧ ∀ v ∈ w, isZero v = true) →
      processChannels s ch ws (Acc.zeroed s.cfg.blockSize) = .ok (Acc.zeroed s.cfg.blockSize)
  | [], _, _, _ => rfl
  | w :: ws, ch, hch, hw => by
    obtain ⟨⟨hlen, hv⟩, hws⟩ := List.forall_mem_cons.1 hw
    rw [List.length_cons] at hch
    rw [processChannels, processChannel_of_zeros hs hp htotal hzero hfin (by omega) hlen hv]
    exact processChannels_of_zeros hs hp htotal hzero hfin ws (ch + 1) (by omega) hws

end

end Sys2Proof.Machine
end

section
/-! SUPPORT. The numbers of the status registers, and what a QUERY of each group of them answers (10_state R26,
44_raw_filter R198 to R205). -/

namespace Sys2Proof.Machine

section
variable {a : Arg} {r : StatusReg}

/-- Decoding a register number undoes `registerNumber` (R26). -/
theorem registerOfNumber_eq_some_iff {k : Nat} : registerOfNumber k = some r ↔ registerNumber r = k := by
  constructor
  · intro h
    unfold registerOfNumber at h
    split at h
    case h_13 =>
      split at h
      · cases h
        simp only [registerNumber]
        omega
      · cases h
    all_goals cases h; rfl
  · rintro rfl
    cases r with
    | position i => fin_cases i <;> rfl
    | _ => rfl

theorem namesRegister_iff_ranges : a.namesRegister = true ↔
    a.toNat ≤ 0x06 ∨ (0x08 ≤ a.toNat ∧ a.toNat ≤ 0x0C) ∨ (0x20 ≤ a.toNat ∧ a.toNat ≤ 0x37) := by
  simp only [Arg.namesRegister, Bool.or_eq_true, Bool.and_eq_true, decide_eq_true_eq, or_assoc]

/-- The three ranges of R26 are the numbers of the registers. -/
theorem namesRegister_iff : a.namesRegister = true ↔ ∃ r, registerNumber r = a.toNat := by
  constructor
  · intro h
    rw [← queryRows_lookup_isSome, Option.isSome_iff_exists] at h
    obtain ⟨row, hrow⟩ := h
    obtain ⟨r, -, hr, -⟩ := exec_of_mem_queryRows _ (mem_of_lookup hrow)
    exact ⟨r, hr⟩
  · rintro ⟨r, hr⟩
    rw [namesRegister_iff_ranges, ← hr]
    cases r with
    | position i =>
      simp only [registerNumber]
      omega
    | _ => decide

/-- The operand of QUERY is the register whose number it is (R80, R198). -/
theorem registerOperand_eq_some_iff : registerOperand a = some r ↔ registerNumber r = a.toNat := by
  by_cases ha : a.toNat < 256
  · rw [registerOperand_of_lt ha, registerOfNumber_eq_some_iff]
  · rw [registerOperand_of_le (by omega)]
    refine ⟨nofun, fun hr => ?_⟩
    have hranges := namesRegister_iff_ranges.1 (namesRegister_iff.2 ⟨r, hr⟩)
    omega

end

section
variable {s : State} {a : Arg} {r : StatusReg} {d : List Word}

theorem exec_query_of_number (h : registerNumber r = a.toNat) : exec (.query a d) s = queryRegister r d s := by
  rw [exec, execQuery, registerOperand_eq_some_iff.2 h]

/-- QUERY refuses an `ARG` that is no register's number, before it looks at the phase (R198). -/
theorem exec_query_of_unnamed (h : a.namesRegister = false) :
    exec (.query a d) s = .next (failedWith s 0x12 (a.setWidth 32)) := by
  have hnone : registerOperand a = none := Option.eq_none_iff_forall_ne_some.2 fun r hr => by
    rw [namesRegister_iff.2 ⟨r, registerOperand_eq_some_iff.1 hr⟩] at h
    cases h
  rw [exec, execQuery, hnone]
  rfl

/-- A register from 0x08 on is refused in phase EMPTY, whatever the payload (R198). -/
theorem queryRegister_of_empty (hp : s.phase = .empty) (hr : registerAnyPhase r = false) :
    queryRegister r d s = .next (failedWith s 0x13 0) := by
  have hphase : (registerAnyPhase r || decide (s.phase = .ready)) = false := by simp [hr, hp]
  rw [queryRegister, require_of_false hphase, hp]
  rfl

/-- `POSITION[i]` past the last channel is refused, whatever the payload (R198, R204). -/
theorem queryRegister_of_absent (hp : s.phase = .ready) (hr : registerPresent s r = false) :
    queryRegister r d s = .next (failedWith s 0x12 (BitVec.ofNat 32 (registerNumber r))) := by
  have hphase : (registerAnyPhase r || decide (s.phase = .ready)) = true := by simp [hp]
  exact require_of_true hphase (require_of_false hr)

/-- A register that is no `POSITION` has a value in every state. -/
theorem readRegister_of_number_le (h : registerNumber r ≤ 0x0C) : ∃ w, readRegister s r = some w := by
  cases r with
  | position i =>
    simp only [registerNumber] at h
    omega
  | _ => exact ⟨_, rfl⟩

/-- `POSITION[i]` of a channel answers the code of `MAP[i]` (R204). -/
theorem queryRegister_position {i : Fin 24} {p : Position} (hp : s.phase = .ready) (hi : i.val < s.channelCount)
    (hmap : s.map[i.val]? = some p) :
    queryRegister (.position i) [] s = .next (answered s [(positionCode p).setWidth 32]) :=
  queryRegister_of_readable (.inr hp) (decide_eq_true hi) (by rw [readRegister, hmap]; rfl)

end

/-- The rows of the table that read `POSITION[0]`, `POSITION[1]`, … (R26). -/
def positionRows : List (List Word → Instr) := (queryRows.drop 12).map Prod.snd

theorem exec_of_positionRows {i : Nat} {row : List Word → Instr} (h : positionRows[i]? = some row) :
    ∃ k : Fin 24, k.val = i ∧ ∀ d s, exec (row d) s = queryRegister (.position k) d s := by
  have hi : i < 24 := (List.getElem?_eq_some_iff.1 h).1
  interval_cases i
  all_goals
    obtain rfl := Option.some.inj h
    exact ⟨_, rfl, fun _ _ => rfl⟩

end Sys2Proof.Machine
end

section
/-! CERTIFICATES. The statements about the Raw Filter and QUERY (44_raw_filter R195 to R208). -/

namespace Sys2Proof.Machine

/-- Settles O41: both run the engine's loop over the channels on the same accumulators. -/
theorem rawTransformIsOneProcessChannelPerChannel : Obligations.RawTransformIsOneProcessChannelPerChannel := by
  intro s ws hs hp htotal hlen hw
  obtain ⟨acc, hrun⟩ := processChannels_of_total hs.memory (hs.blockSize_le hp) htotal ws 0 s.acc (by omega)
    hw hs.acc_fits
  obtain ⟨u, hu, hacc⟩ := execAll_channelCommands hp (by omega) (hs.channelCount_le hp) hw hrun
  refine ⟨_, u, exec_rawTransform_of_ok hp hlen hw hrun,
    by simpa only [channelCommands, Nat.zero_add] using hu, ?_, ?_, ?_⟩
  · unfold State.loseScratchIfUsed
    split <;> rfl
  · simp [answered, hacc]
  · rintro rfl
    obtain rfl := Except.ok.inj hrun
    exact congrArg (answered · []) (if_pos hlen.symm)

/-- Settles O42: ACC_ZERO leaves accumulators of `+0.0`, and every window of zeros leaves them so. -/
theorem zeroWindowsGiveAZeroBlock : Obligations.ZeroWindowsGiveAZeroBlock := by
  intro s ws hs hp htotal hzero hfin hlen hw
  have hzeroed : (answered (s.setAcc (Acc.zeroed s.cfg.blockSize)) []).Inv := hs.setAcc hp (zeroed_fits _)
  have hrun := processChannels_of_zeros hzeroed hp htotal hzero hfin ws 0 (by simp [answered, hlen]) hw
  have hraw := exec_rawTransform_of_ok (s := answered (s.setAcc (Acc.zeroed s.cfg.blockSize)) []) hp hlen
    (fun w h => (hw w h).1) hrun
  refine ⟨_, (execAll_cons_of_next (exec_accZero hp)).trans (execAll_cons_of_next hraw), ?_, ?_⟩
  all_goals simp [answered]

/-- Settles O43: the checks and the engine read the same in both states. -/
theorem rawTransformDependsOnlyOnItsInputs : Obligations.RawTransformDependsOnlyOnItsInputs := by
  intro s u t a d hcfg hphase hN hC hir hacc
  suffices h : SameAnswer s u (exec (.rawTransform a d) s) (exec (.rawTransform a d) u) from h t
  simp only [exec, execRawTransform, hphase, hN, hC, processChannels_congr hcfg hN hir, hacc]
  refine sameAnswer_require _ _ hacc (sameAnswer_require _ _ hacc (sameAnswer_require _ _ hacc ?_))
  split
  · exact sameAnswer_engineStopped _
  · exact sameAnswer_rawTransform_ok _

/-- Settles O57: each row and each operand reads the register with its number. -/
theorem queryAgreesWithItsRegisterRows : Obligations.QueryAgreesWithItsRegisterRows := by
  intro s a d
  refine ⟨fun row hrow => ?_, fun hnone => exec_query_of_unnamed (queryRows_lookup_eq_none.1 hnone), fun ha => ?_,
    fun hp hlo hhi => ?_, fun hp hlo hhi p hi hmap => ?_⟩
  · obtain ⟨r, -, hr, hexec⟩ := exec_of_mem_queryRows _ (mem_of_lookup hrow)
    rw [hexec, exec_query_of_number hr]
  · obtain ⟨r, hr⟩ := namesRegister_iff.1 (namesRegister_iff_ranges.2 (.inl ha))
    obtain ⟨hany, hpresent⟩ := readable_of_engineRegister (s := s) (r := r) (by omega)
    obtain ⟨w, hw⟩ := readRegister_of_number_le (s := s) (r := r) (by omega)
    exact ⟨w, (exec_query_of_number hr).trans (queryRegister_of_readable (.inl hany) hpresent hw)⟩
  · obtain ⟨r, hr⟩ := namesRegister_iff.1 (namesRegister_iff_ranges.2 (.inr (.inl ⟨hlo, hhi⟩)))
    obtain ⟨w, hw⟩ := readRegister_of_number_le (s := s) (r := r) (by omega)
    have hpresent := registerPresent_of_number (s := s) (r := r) (.inl (by omega))
    exact ⟨w, (exec_query_of_number hr).trans (queryRegister_of_readable (.inr hp) hpresent hw)⟩
  · have hr : registerNumber (.position ⟨a.toNat - 0x20, by omega⟩) = a.toNat := Nat.add_sub_cancel' hlo
    exact (exec_query_of_number hr).trans (queryRegister_position hp hi hmap)

/-- Settles O44: a block of `zeros` is `B` samples of `+0.0`. -/
theorem accZeroClearsTheAccumulators : Obligations.AccZeroClearsTheAccumulators := fun _ hp =>
  ⟨_, exec_accZero hp, rfl, zeros_length _, zeros_length _, fun _ => List.eq_of_mem_replicate,
    fun _ => List.eq_of_mem_replicate⟩

/-- Settles O45: the two blocks have `B` samples each under the invariant. -/
theorem accReadAnswersBothBlocks : Obligations.AccReadAnswersBothBlocks := by
  intro s hs hp
  have ⟨hl, hr⟩ := hs.acc_fits
  refine ⟨_, exec_accRead hp hs.acc_fits, by rw [List.length_append]; omega, fun j hj => ⟨?_, ?_⟩⟩
  · exact List.getElem?_append_left (by omega)
  · rw [List.getElem?_append_right (by omega), hl, Nat.add_sub_cancel_left]

/-- Settles O54: the registers are readable in any phase, and each has its value. -/
theorem queryOfEngineRegistersAnswersInAnyPhase : Obligations.QueryOfEngineRegistersAnswersInAnyPhase := by
  intro s
  have answers : ∀ r {w}, registerNumber r ≤ 0x06 → readRegister s r = some w →
      queryRegister r [] s = .next (answered s [w]) := fun r _ hr hw =>
    have ⟨hany, hpresent⟩ := readable_of_engineRegister hr
    queryRegister_of_readable (.inl hany) hpresent hw
  exact ⟨answers .phase (by decide) rfl, answers .err (by decide) rfl, answers .errInfo (by decide) rfl,
    answers .blockSize (by decide) rfl, answers .maxChannels (by decide) rfl, answers .maxFftLen (by decide) rfl,
    answers .hasResampler (by decide) rfl⟩

/-- Settles O55: in READY the registers are readable, and in EMPTY the phase check refuses them. -/
theorem queryOfFilterRegistersNeedsAnInstance : Obligations.QueryOfFilterRegistersNeedsAnInstance := by
  refine fun s => ⟨fun hp => ?_, fun hp d => ?_⟩
  · have answers : ∀ r {w}, registerPresent s r = true → readRegister s r = some w →
        queryRegister r [] s = .next (answered s [w]) := fun _ _ => queryRegister_of_readable (.inr hp)
    exact ⟨answers .samplesRequired rfl rfl, answers .sampleLatency rfl rfl, answers .sampleRate rfl rfl,
      answers .channelCount rfl rfl, answers .available rfl rfl⟩
  · have refused : ∀ r, registerAnyPhase r = false → queryRegister r d s = .next (failedWith s 0x13 0) :=
      fun _ => queryRegister_of_empty hp
    exact ⟨refused .samplesRequired rfl, refused .sampleLatency rfl, refused .sampleRate rfl,
      refused .channelCount rfl, refused .available rfl⟩

/-- Settles O56: each of the 24 rows reads the `POSITION` register of its place. -/
theorem queryOfPositionsAnswersTheMap : Obligations.QueryOfPositionsAnswersTheMap := by
  intro s i row hrow
  obtain ⟨k, rfl, hexec⟩ := exec_of_positionRows hrow
  simp only [hexec]
  refine ⟨fun p => queryRegister_position, fun hp d => queryRegister_of_empty hp ?_,
    fun hp hk d => queryRegister_of_absent hp (decide_eq_false (by omega))⟩
  exact decide_eq_false (by simp only [registerNumber]; omega)

end Sys2Proof.Machine
end

section
/-! SUPPORT. What STREAM_TRANSFORM answers: while the windows fill, when they are full and the engine ends well, and when
the backend fails on them (45_streaming R216 to R221). -/

namespace Sys2Proof.Machine

section
variable {s : State} {n : Nat} {d : List Word}

theorem absorb_win (hm : Memory.wf s) (hn : n ≤ s.fftLen) : (absorb n d s).win = windowsAfter s n d := by
  rw [absorb_eq hm hn]

theorem absorb_available (hm : Memory.wf s) (hn : n ≤ s.fftLen) :
    (absorb n d s).available = min (s.available + n) s.fftLen := by
  rw [absorb_eq hm hn]

@[simp] theorem windowsAfter_length (s : State) (n : Nat) (d : List Word) :
    (windowsAfter s n d).length = s.win.length := by
  rw [windowsAfter, List.length_mapIdx]

/-- A chunk that fills the windows leaves `N` samples in each (R217). -/
theorem length_of_mem_windowsAfter (hm : Memory.wf s) (hn : n ≤ s.fftLen) (hfull : s.fftLen ≤ s.available + n) :
    ∀ w ∈ windowsAfter s n d, w.length = s.fftLen := by
  obtain ⟨-, -, -, -, -, -, -, hwin⟩ := absorb_wf (d := d) hm hn
  rw [absorb_win hm hn, absorb_available hm hn, min_eq_right hfull] at hwin
  exact hwin

end

section
variable {s : State} {acc : Acc} {st : Stage}

/-- The windows are not full: no block, and an empty answer (R218). -/
theorem produceBlock_of_not_full (h : s.available < s.fftLen) : produceBlock s = .next (answered s []) := by
  rw [produceBlock, if_pos h]
  rfl

/-- The state that a block leaves when the engine ends with `acc`: the clipped block in `ACC`, and every window without
its `B` oldest samples (R219, R220). -/
def afterBlock (acc : Acc) (s : State) : State :=
  ((s.setAcc acc.clipped).loseScratchIfUsed).dropFront s.cfg.blockSize

theorem produceBlock_of_ok (hm : Memory.wf s) (hfull : s.fftLen ≤ s.available)
    (h : processChannels s 0 s.win (Acc.zeroed s.cfg.blockSize) = .ok acc) :
    produceBlock s = .next (answered (afterBlock acc s) (interleave acc.clipped.left acc.clipped.right)) := by
  rw [produceBlock, if_neg (Nat.not_lt.2 hfull), readWindows_of_full hm hfull]
  simp only [h]
  rfl

/-- A backend failure leaves the windows as they are (R221). -/
theorem produceBlock_of_backend (hm : Memory.wf s) (hfull : s.fftLen ≤ s.available)
    (h : processChannels s 0 s.win (Acc.zeroed s.cfg.blockSize) = .error (.backend st)) :
    produceBlock s = .next (failedWith s.loseAcc.loseScratch 0x05 (BitVec.ofNat 32 (stageNumber st))) := by
  rw [produceBlock, if_neg (Nat.not_lt.2 hfull), readWindows_of_full hm hfull]
  simp only [h]
  exact engineStopped_backend s st

end

section
variable {s : State} {n : Arg} {d : List Word}

/-- The three checks of STREAM_TRANSFORM hand on to its steps (R215). -/
theorem exec_streamTransform (hp : s.phase = .ready) (hd : d.length = n.toNat * s.channelCount)
    (hn : n.toNat ≤ s.fftLen) : exec (.streamTransform n d) s = produceBlock (absorb n.toNat d s) :=
  require_of_true (decide_eq_true hp) (require_of_true (decide_eq_true hd) (require_of_true (decide_eq_true hn) rfl))

theorem absorb_available_of_full (hm : Memory.wf s) (hn : n.toNat ≤ s.fftLen)
    (hfull : s.fftLen ≤ s.available + n.toNat) : (absorb n.toNat d s).available = s.fftLen :=
  (absorb_available hm hn).trans (min_eq_right hfull)

/-- The engine on an absorbed chunk is the engine of `s` on the windows that the chunk leaves. -/
theorem processChannels_absorb (hm : Memory.wf s) (hn : n.toNat ≤ s.fftLen) :
    processChannels (absorb n.toNat d s) 0 (absorb n.toNat d s).win (Acc.zeroed (absorb n.toNat d s).cfg.blockSize) =
      processChannels s 0 (windowsAfter s n.toNat d) (Acc.zeroed s.cfg.blockSize) := by
  rw [processChannels_congr (u := s) (absorb_cfg _ _ s) (absorb_fftLen _ _ s) (absorb_ir _ _ s),
    absorb_win hm hn, absorb_cfg]

section
variable (hm : Memory.wf s) (hp : s.phase = .ready) (hd : d.length = n.toNat * s.channelCount)
  (hn : n.toNat ≤ s.fftLen)
include hm hp hd hn

/-- A chunk that leaves room in the windows is absorbed (R218). -/
theorem exec_streamTransform_of_room (hlt : s.available + n.toNat < s.fftLen) :
    exec (.streamTransform n d) s = .next (answered (absorb n.toNat d s) []) := by
  rw [exec_streamTransform hp hd hn, produceBlock_of_not_full]
  rw [absorb_fftLen, absorb_available hm hn]
  omega

/-- A chunk that fills the windows yields a block when the engine ends well on them (R219, R220). -/
theorem exec_streamTransform_of_ok {acc : Acc} (hfull : s.fftLen ≤ s.available + n.toNat)
    (h : processChannels s 0 (windowsAfter s n.toNat d) (Acc.zeroed s.cfg.blockSize) = .ok acc) :
    exec (.streamTransform n d) s =
      .next (answered (afterBlock acc (absorb n.toNat d s)) (interleave acc.clipped.left acc.clipped.right)) := by
  rw [exec_streamTransform hp hd hn]
  refine produceBlock_of_ok (absorb_wf hm hn) ?_ ((processChannels_absorb hm hn).trans h)
  rw [absorb_available_of_full hm hn hfull, absorb_fftLen]

/-- A chunk that fills the windows is kept when the backend fails on them (R221). -/
theorem exec_streamTransform_of_backend {st : Stage} (hfull : s.fftLen ≤ s.available + n.toNat)
    (h : processChannels s 0 (windowsAfter s n.toNat d) (Acc.zeroed s.cfg.blockSize) = .error (.backend st)) :
    exec (.streamTransform n d) s =
      .next (failedWith (absorb n.toNat d s).loseAcc.loseScratch 0x05 (BitVec.ofNat 32 (stageNumber st))) := by
  rw [exec_streamTransform hp hd hn]
  refine produceBlock_of_backend (absorb_wf hm hn) ?_ ((processChannels_absorb hm hn).trans h)
  rw [absorb_available_of_full hm hn hfull, absorb_fftLen]

end

/-- With a backend that does not fail, the engine ends well on windows that a chunk has filled (R111, R219). -/
theorem processChannels_windowsAfter (hs : s.Inv) (hp : s.phase = .ready) (hn : n.toNat ≤ s.fftLen)
    (hfull : s.fftLen ≤ s.available + n.toNat) (htotal : BkTotal s.cfg s.fftLen) :
    ∃ acc, processChannels s 0 (windowsAfter s n.toNat d) (Acc.zeroed s.cfg.blockSize) = .ok acc ∧
      acc.Fits s.cfg.blockSize := by
  have hwin := length_of_mem_windowsAfter (d := d) hs.memory hn hfull
  have ⟨_, _, _, _, _, _, hlen, _⟩ := hs.memory
  obtain ⟨acc, h⟩ := processChannels_of_total hs.memory (hs.blockSize_le hp) htotal _ 0 (Acc.zeroed s.cfg.blockSize)
    (by rw [windowsAfter_length]; omega) hwin (zeroed_fits _)
  exact ⟨acc, h, processChannels_fits h (zeroed_fits _)⟩

end

/-- ACC_ZERO and then RAW_TRANSFORM leave in `ACC` what the engine gives from accumulators of `+0.0` (R195, R196). -/
theorem execAll_accZero_rawTransform {s : State} {ws : List (List F32)} {acc : Acc} (hp : s.phase = .ready)
    (hlen : ws.length = s.channelCount) (hw : ∀ w ∈ ws, w.length = s.fftLen)
    (h : processChannels s 0 ws (Acc.zeroed s.cfg.blockSize) = .ok acc) :
    ∃ u, execAll [.accZero 0 [], .rawTransform 0 ws.flatten] s = .next u ∧ u.acc = acc := by
  have hengine := processChannels_congr (s := answered (s.setAcc (Acc.zeroed s.cfg.blockSize)) []) (u := s)
    rfl rfl rfl ws 0 (Acc.zeroed s.cfg.blockSize)
  have hraw := exec_rawTransform_of_ok (s := answered (s.setAcc (Acc.zeroed s.cfg.blockSize)) []) hp hlen hw
    (hengine.trans h)
  exact ⟨_, (execAll_cons_of_next (exec_accZero hp)).trans (execAll_cons_of_next hraw), by simp [answered]⟩

section
variable (acc : Acc) (s : State)

@[simp] theorem afterBlock_available : (afterBlock acc s).available = s.available - s.cfg.blockSize := by
  simp [afterBlock]

@[simp] theorem afterBlock_fftLen : (afterBlock acc s).fftLen = s.fftLen := by simp [afterBlock]

@[simp] theorem afterBlock_cfg : (afterBlock acc s).cfg = s.cfg := by simp [afterBlock]

@[simp] theorem afterBlock_phase : (afterBlock acc s).phase = s.phase := by simp [afterBlock]

@[simp] theorem afterBlock_acc : (afterBlock acc s).acc = acc.clipped := by simp [afterBlock]

/-- A block changes the windows, `ACC` and the scratch buffers alone (R219, R220). -/
theorem afterBlock_frame :
    afterBlock acc s =
      { s with win := s.win.map (List.drop s.cfg.blockSize), available := s.available - s.cfg.blockSize,
               acc := acc.clipped, scratch := (afterBlock acc s).scratch, draws := (afterBlock acc s).draws } := by
  unfold afterBlock State.loseScratchIfUsed
  split <;> rfl

end

end Sys2Proof.Machine
end

section
/-! SUPPORT. What `clip` answers in each part of the range, and that a streamed block is clipped (40_numerics R115,
45_streaming R225). -/

namespace Sys2Proof.Machine

section
variable {x : F32}

theorem exactValue_plusOne : exactValue plusOne = 1 := by decide +kernel

theorem exactValue_minusOne : exactValue minusOne = -1 := by decide +kernel

theorem clip_of_fgt (h : fgt x plusOne = true) : clip x = plusOne := if_pos h

/-- No value is both below `-1.0` and above `1.0`. -/
theorem clip_of_flt (h : flt x minusOne = true) : clip x = minusOne := by
  have hle : fgt x plusOne = false := Bool.eq_false_iff.2 fun hgt =>
    absurd (fgt_trans ((fgt_eq_flt_swap _ _).trans h) hgt) (by decide)
  simp [clip, hle, h]

theorem clip_of_isNaN (h : isNaN x = true) : clip x = Config.clipNan x := by
  simp [clip, fgt_flt_of_isNaN (.inl h), h]

theorem clip_of_inRange (hn : isNaN x = false) (hgt : fgt x plusOne = false) (hlt : flt x minusOne = false) :
    clip x = x := by
  simp [clip, hn, hgt, hlt]

/-- What lies between `-1.0` and `1.0` is no infinity. -/
theorem isFinite_of_inRange (hn : isNaN x = false) (hgt : fgt x plusOne = false) (hlt : flt x minusOne = false) :
    isFinite x = true := by
  have hplus : orderKey plusOne = 0x3F800000 := by decide
  have hminus : orderKey minusOne = -0x3F800000 := by decide
  rw [← Bool.not_eq_true, fgt_iff hn (by decide), hplus, orderKey] at hgt
  rw [← Bool.not_eq_true, flt_iff hn (by decide), hminus, orderKey] at hlt
  rw [isFinite_iff, infBits]
  cases hs : signBit x
  · rw [hs, if_neg Bool.false_ne_true] at hgt
    omega
  · rw [hs, if_pos rfl] at hlt
    omega

/-- The comparisons tell whether a finite value lies between `-1.0` and `1.0` (R103). -/
theorem abs_exactValue_le_one_iff (hx : isFinite x = true) :
    |exactValue x| ≤ 1 ↔ fgt x plusOne = false ∧ flt x minusOne = false := by
  obtain ⟨hgt, -⟩ := fgt_flt_iff_exactValue (y := plusOne) hx (by decide)
  obtain ⟨-, hlt⟩ := fgt_flt_iff_exactValue (y := minusOne) hx (by decide)
  rw [← Bool.not_eq_true, ← Bool.not_eq_true, hgt, hlt, exactValue_plusOne, exactValue_minusOne, not_lt, not_lt,
    abs_le, and_comm]

/-- R225: what `clip` answers is a value between `-1.0` and `1.0`, or the value `CLIP_NAN` of a NaN. -/
theorem clip_bounded (x : F32) : (isFinite (clip x) = true ∧ |exactValue (clip x)| ≤ 1) ∨
    ∃ v, isNaN v = true ∧ clip x = Config.clipNan v := by
  cases hn : isNaN x with
  | true => exact .inr ⟨x, hn, clip_of_isNaN hn⟩
  | false =>
    left
    cases hgt : fgt x plusOne with
    | true =>
      rw [clip_of_fgt hgt, exactValue_plusOne]
      exact ⟨rfl, by norm_num⟩
    | false =>
      cases hlt : flt x minusOne with
      | true =>
        rw [clip_of_flt hlt, exactValue_minusOne]
        exact ⟨rfl, by norm_num⟩
      | false =>
        have hfinite := isFinite_of_inRange hn hgt hlt
        rw [clip_of_inRange hn hgt hlt]
        exact ⟨hfinite, (abs_exactValue_le_one_iff hfinite).2 ⟨hgt, hlt⟩⟩

end

/-- A STREAM_TRANSFORM sends nothing, or a block that is clipped (R218, R219). -/
theorem Succeeds.payload_clipped {s u : State} {n : Arg} {d w : List Word} (h : Succeeds s (.streamTransform n d) w u) :
    ∀ x ∈ w, ∃ v, x = clip v := by
  intro x hx
  cases h with
  | read hi => cases hi
  | fill => cases hx
  | block =>
    obtain hx | hx := mem_interleave hx
    all_goals
      obtain ⟨v, -, rfl⟩ := List.mem_map.1 hx
      exact ⟨v, rfl⟩

/-- Every word that a STREAM_TRANSFORM sends is what `clip` answers (R225). -/
theorem streamTransform_payload_clipped {s t : State} {n : Arg} {d : List Word} {r : Response}
    (h : exec (.streamTransform n d) s = .next t) (hr : t.hostOut = s.hostOut ++ [r]) :
    ∀ x ∈ r.payload, ∃ v, x = clip v := by
  cases exec_ends h with
  | failed hf =>
    obtain ⟨-, -, hout⟩ := hf.samePorts
    obtain rfl : errorResponse _ = r := by simpa [hout] using hr
    exact nofun
  | done hd =>
    obtain ⟨-, -, hout⟩ := hd.samePorts
    obtain rfl : okResponse _ = r := by simpa [hout] using hr
    exact hd.payload_clipped

end Sys2Proof.Machine
end

section
/-! SUPPORT. Chunks for which the windows have room: what they append, frame by frame, and what a run of them sends
whatever has been sent before (45_streaming R216, R218, R223, R224). -/

namespace Sys2Proof.Machine

/-! ### Appending in parts -/

section
variable {n m channels c : Nat} {d e : List Word}

/-- The frames of `d` are followed by those of `e` when `d` is `n` whole frames (R78). -/
theorem channelSamples_append (hd : d.length = n * channels) (hc : c < channels) :
    channelSamples (n + m) channels (d ++ e) c = channelSamples n channels d c ++ channelSamples m channels e c := by
  simp only [channelSamples, List.range_add, List.map_append, List.map_map]
  congr 1
  · refine List.map_congr_left fun t ht => ?_
    have hlt : t * channels + c < d.length := by
      have hframe : (t + 1) * channels ≤ n * channels := Nat.mul_le_mul_right _ (List.mem_range.1 ht)
      rw [Nat.succ_mul] at hframe
      omega
    rw [List.getD_append _ _ _ _ hlt]
  · refine List.map_congr_left fun t _ => ?_
    have hshift : (n + t) * channels + c = d.length + (t * channels + c) := by rw [hd]; ring
    rw [Function.comp_apply, hshift, List.getD_append_right _ _ _ _ (by omega), Nat.add_sub_cancel_left]

variable {s : State}

/-- A chunk of no frames appends nothing (R216). -/
theorem appendFrames_zero : s.appendFrames 0 d = s := by
  have hwin : (s.appendFrames 0 d).win = s.win := List.ext_getElem (by simp) fun c _ _ => by simp
  rw [State.appendFrames_win] at hwin
  rw [State.appendFrames, hwin]
  rfl

/-- Two chunks leave what one chunk of their frames leaves (R216). -/
theorem appendFrames_appendFrames (hm : Memory.wf s) (hd : d.length = n * s.channelCount) :
    (s.appendFrames n d).appendFrames m e = s.appendFrames (n + m) (d ++ e) := by
  obtain ⟨-, -, -, -, -, -, hlen, -⟩ := hm
  simp only [State.appendFrames, Nat.add_assoc, List.mapIdx_mapIdx]
  congr 1
  refine List.mapIdx_eq_mapIdx_iff.2 fun c hc => ?_
  have hparts := channelSamples_append (m := m) (e := e) hd (hlen ▸ hc)
  simpa only [channelSamples, Function.comp_apply, List.append_assoc] using congrArg (_ ++ ·) hparts.symm

/-- A live filter stays well-formed when its windows take a chunk that they have room for. -/
theorem State.Inv.appendFrames (hs : s.Inv) (hp : s.phase = .ready) (hn : s.available + n ≤ s.fftLen) :
    (s.appendFrames n d).Inv :=
  hs.of_sameFilter hp rfl ⟨rfl, rfl, rfl, rfl, rfl, rfl⟩ (appendFrames_wf hs.memory hn)

/-- With room in the windows nothing is dropped (R217). -/
theorem absorb_of_room (hn : s.available + n ≤ s.fftLen) : absorb n d s = s.appendFrames n d := by
  rw [absorb, makeRoom, if_neg (Nat.not_lt.2 hn)]

end

/-! ### Chunks of frames -/

/-- The frames of a chunk have a sample a channel, their number fits `ARG`, and the windows have room for them
(R224). -/
abbrev ChunkFits (s : State) (chunk : List (List F32)) : Prop :=
  (∀ frame ∈ chunk, frame.length = s.channelCount) ∧ chunk.length < 2 ^ 24 ∧ s.available + chunk.length ≤ s.fftLen

section
variable {s : State} {frame : List F32} {chunk : List (List F32)}

/-- A chunk that fits is appended whole, and a block is produced if it fills the windows (R215 to R219). -/
theorem exec_chunk (hp : s.phase = .ready) (hfits : ChunkFits s chunk) :
    exec (assemble (.streamTransform chunk)) s = produceBlock (s.appendFrames chunk.length chunk.flatten) := by
  obtain ⟨hframes, hlt, hle⟩ := hfits
  have hnumber : (BitVec.ofNat 24 chunk.length).toNat = chunk.length := by
    rw [BitVec.toNat_ofNat, Nat.mod_eq_of_lt hlt]
  have hpayload : chunk.flatten.length = (BitVec.ofNat 24 chunk.length).toNat * s.channelCount := by
    rw [hnumber, length_flatten_of_rows hframes]
  rw [assemble, exec_streamTransform hp hpayload (by omega), hnumber, absorb_of_room hle]

/-- The first frame of a chunk can be appended ahead of the others (R216). -/
theorem exec_chunk_cons (hs : s.Inv) (hp : s.phase = .ready) (hfits : ChunkFits s (frame :: chunk)) :
    ChunkFits (s.appendFrames 1 frame) chunk ∧
      exec (assemble (.streamTransform (frame :: chunk))) s =
        exec (assemble (.streamTransform chunk)) (s.appendFrames 1 frame) := by
  have ⟨hframes, hlt, hle⟩ := hfits
  obtain ⟨hframe, hchunk⟩ := List.forall_mem_cons.1 hframes
  rw [List.length_cons] at hlt hle
  have hrest : ChunkFits (s.appendFrames 1 frame) chunk :=
    ⟨hchunk, by omega, by rw [State.appendFrames_available, State.appendFrames_fftLen]; omega⟩
  refine ⟨hrest, ?_⟩
  rw [exec_chunk hp hfits, exec_chunk (s := s.appendFrames 1 frame) hp hrest,
    appendFrames_appendFrames hs.memory (by rw [hframe, one_mul]), List.length_cons, List.flatten_cons,
    Nat.add_comm]

end

/-! ### What does not depend on what has been sent -/

/-- `s` with other responses sent before. -/
def State.withSent (out : List Response) (s : State) : State := { s with hostOut := out }

/-- Whatever has been sent before, `i` takes `s` to `v` and sends the one response `p`. -/
def Sends (i : Instr) (s v : State) (p : Response) : Prop :=
  ∀ out, exec i (s.withSent out) = .next (v.withSent (out ++ [p]))

/-- Whatever has been sent before, the chunks take `s` to `v` and the responses `ps` are sent. -/
def Streams (s : State) (chunks : List (List (List F32))) (v : State) (ps : List Response) : Prop :=
  ∀ out, streamRun (s.withSent out) chunks = some (v.withSent (out ++ ps), ps.flatMap Response.payload)

/-- A live filter that streams: its windows are not full, and its backend does not fail. -/
abbrev Streaming (s : State) : Prop :=
  s.Inv ∧ s.phase = .ready ∧ s.available < s.fftLen ∧ BkTotal s.cfg s.fftLen

section
variable {s v w : State} {acc : Acc} {chunk : List (List F32)} {chunks : List (List (List F32))} {p : Response}
  {ps : List Response}

theorem streams_nil (s : State) : Streams s [] s [] := fun out => by
  rw [streamRun, List.append_nil]
  rfl

theorem streams_cons (hp : Sends (assemble (.streamTransform chunk)) s v p) (hps : Streams v chunks w ps) :
    Streams s (chunk :: chunks) w (p :: ps) := fun out => by
  rw [streamRun, hp]
  simp only [hps (out ++ [p])]
  simp [State.withSent]

theorem loseScratchIfUsed_withSent (s : State) (out : List Response) :
    (s.withSent out).loseScratchIfUsed = s.loseScratchIfUsed.withSent out :=
  (apply_ite (State.withSent out) (s.channelCount = 0) s s.loseScratch).symm

/-- What a block leaves does not depend on what has been sent. -/
theorem afterBlock_withSent (out : List Response) :
    afterBlock acc (s.withSent out) = (afterBlock acc s).withSent out :=
  congrArg (State.dropFront s.cfg.blockSize) (loseScratchIfUsed_withSent (s.setAcc acc.clipped) out)

/-- A chunk that leaves room in the windows is appended and sends an empty answer (R218). -/
theorem sends_of_room (hp : s.phase = .ready) (hfits : ChunkFits s chunk)
    (hlt : s.available + chunk.length < s.fftLen) :
    Sends (assemble (.streamTransform chunk)) s (s.appendFrames chunk.length chunk.flatten) (okResponse []) :=
  fun out => (exec_chunk (s := s.withSent out) hp hfits).trans (produceBlock_of_not_full hlt)

/-- Full windows give one block, the same whatever has been sent, when the backend does not fail (R219). -/
theorem produceBlock_withSent_of_full (hs : s.Inv) (hp : s.phase = .ready) (htotal : BkTotal s.cfg s.fftLen)
    (hfull : s.fftLen ≤ s.available) :
    ∃ acc, ∀ out, produceBlock (s.withSent out) =
      .next ((afterBlock acc s).withSent (out ++ [okResponse (interleave acc.clipped.left acc.clipped.right)])) := by
  have ⟨_, _, _, _, _, hle, hlen, hwin⟩ := hs.memory
  obtain ⟨acc, hrun⟩ := processChannels_of_total hs.memory (hs.blockSize_le hp) htotal s.win 0
    (Acc.zeroed s.cfg.blockSize) (by omega) (fun w hw => (hwin w hw).trans (le_antisymm hle hfull)) (zeroed_fits _)
  refine ⟨acc, fun out => ?_⟩
  have hengine := processChannels_congr (s := s.withSent out) (u := s) rfl rfl rfl s.win 0 (Acc.zeroed s.cfg.blockSize)
  rw [produceBlock_of_ok (s := s.withSent out) hs.memory hfull (hengine.trans hrun), afterBlock_withSent]
  rfl

/-- A chunk that fits keeps a filter streaming, and sends one answer (R34 e). -/
theorem exists_sends (hs : Streaming s) (hfits : ChunkFits s chunk) :
    ∃ v p, Sends (assemble (.streamTransform chunk)) s v p ∧ Streaming v := by
  obtain ⟨hinv, hp, -, htotal⟩ := hs
  have ⟨_, _, hle⟩ := hfits
  by_cases hfull : s.fftLen ≤ s.available + chunk.length
  · obtain ⟨acc, hblock⟩ := produceBlock_withSent_of_full
      (hinv.appendFrames (d := chunk.flatten) hp hle) hp htotal hfull
    have hsends : Sends (assemble (.streamTransform chunk)) s _ _ :=
      fun out => (exec_chunk (s := s.withSent out) hp hfits).trans (hblock out)
    have hv : (afterBlock acc (s.appendFrames chunk.length chunk.flatten)).Inv := (exec_ends (hsends [])).inv hinv
    have ⟨⟨hB, _⟩, _, _, _⟩ := hinv
    have hN := hinv.blockSize_le hp
    refine ⟨_, _, hsends, hv, by simpa using hp, ?_, by simpa using htotal⟩
    simp only [afterBlock_available, afterBlock_fftLen, State.appendFrames_available, State.appendFrames_fftLen,
      State.appendFrames_cfg]
    omega
  · exact ⟨_, _, sends_of_room hp hfits (by omega), hinv.appendFrames hp hle, hp, Nat.lt_of_not_le hfull, htotal⟩

/-- Single frames send what one chunk of them sends, and leave what it leaves: only the last can fill the windows
(R224). -/
theorem streams_frames_of_chunk : ∀ {chunk : List (List F32)} {s : State}, Streaming s → ChunkFits s chunk →
    ∃ v p, Sends (assemble (.streamTransform chunk)) s v p ∧ Streaming v ∧
      ∀ {rest w qs}, Streams v rest w qs → ∃ ps, Streams s (chunk.map (fun frame => [frame]) ++ rest) w ps ∧
        ps.flatMap Response.payload = p.payload ++ qs.flatMap Response.payload
  | [], s, hs, hfits => by
    have ⟨_, hp, hroom, _⟩ := hs
    have hsends := sends_of_room hp hfits hroom
    rw [List.length_nil, appendFrames_zero] at hsends
    exact ⟨s, _, hsends, hs, fun {_ _ qs} hrest => ⟨qs, hrest, rfl⟩⟩
  | [frame], s, hs, hfits => by
    obtain ⟨v, p, hsends, hv⟩ := exists_sends hs hfits
    exact ⟨v, p, hsends, hv, fun {_ _ qs} hrest => ⟨p :: qs, streams_cons hsends hrest, rfl⟩⟩
  | frame :: next :: chunk, s, hs, hfits => by
    obtain ⟨hinv, hp, -, htotal⟩ := hs
    have ⟨hframes, _, hle⟩ := hfits
    rw [List.length_cons, List.length_cons] at hle
    have hframe : ChunkFits s [frame] := by
      rw [ChunkFits, List.length_singleton]
      exact ⟨List.forall_mem_singleton.2 (hframes frame List.mem_cons_self), by decide, by omega⟩
    have hfirst : Sends _ s (s.appendFrames 1 [frame].flatten) _ :=
      sends_of_room hp hframe (by rw [List.length_singleton]; omega)
    rw [List.flatten_singleton] at hfirst
    have hs' : Streaming (s.appendFrames 1 frame) :=
      ⟨hinv.appendFrames hp (by omega), hp, by
        rw [State.appendFrames_available, State.appendFrames_fftLen]; omega, htotal⟩
    obtain ⟨v, p, hsends, hv, hstream⟩ := streams_frames_of_chunk hs' (exec_chunk_cons hinv hp hfits).1
    refine ⟨v, p, fun out => ?_, hv, fun hrest => ?_⟩
    · exact (exec_chunk_cons (s := s.withSent out) hinv hp hfits).2.trans (hsends out)
    · obtain ⟨ps, hps, hpayload⟩ := hstream hrest
      exact ⟨okResponse [] :: ps, streams_cons hfirst hps, hpayload⟩

/-- Chunks that fit, and the same frames one by one (R224). -/
theorem streams_chunks_and_frames : ∀ {chunks : List (List (List F32))} {s : State}, Streaming s →
    streamFits s chunks → ∃ v ps qs, Streams s chunks v ps ∧
      Streams s (chunks.flatten.map fun frame => [frame]) v qs ∧
      ps.flatMap Response.payload = qs.flatMap Response.payload
  | [], s, _, _ => ⟨s, [], [], streams_nil s, streams_nil s, rfl⟩
  | chunk :: chunks, s, hs, ⟨hframes, hlt, hle, hnext⟩ => by
    obtain ⟨v, p, hsends, hv, hsingle⟩ := streams_frames_of_chunk hs ⟨hframes, hlt, hle⟩
    obtain ⟨w, ps, qs, hps, hqs, hpayload⟩ :=
      streams_chunks_and_frames (s := v.withSent (s.hostOut ++ [p])) hv (hnext _ (hsends s.hostOut))
    obtain ⟨rs, hrs, hpayload'⟩ := hsingle hqs
    refine ⟨w, p :: ps, rs, streams_cons hsends hps, ?_, ?_⟩
    · rwa [List.flatten_cons, List.map_append]
    · rw [hpayload', List.flatMap_cons, hpayload]

/-- Chunks that together leave room in the windows send empty answers (R218, R223). -/
theorem streams_of_room : ∀ {chunks : List (List (List F32))} {s : State}, s.Inv → s.phase = .ready →
    streamFits s chunks → s.available + chunks.flatten.length < s.fftLen →
    ∃ v ps, Streams s chunks v ps ∧ ps.flatMap Response.payload = [] ∧
      v.available = s.available + chunks.flatten.length
  | [], s, _, _, _, _ => ⟨s, [], streams_nil s, rfl, rfl⟩
  | chunk :: chunks, s, hs, hp, ⟨hframes, hlt, hle, hnext⟩, hroom => by
    rw [List.flatten_cons, List.length_append] at hroom ⊢
    have hsends := sends_of_room hp ⟨hframes, hlt, hle⟩ (by omega)
    obtain ⟨v, ps, hps, hpayload, hv⟩ :=
      streams_of_room (s := (s.appendFrames chunk.length chunk.flatten).withSent (s.hostOut ++ [okResponse []]))
        (hs.appendFrames hp hle) hp (hnext _ (hsends s.hostOut)) ((Nat.add_assoc _ _ _).trans_lt hroom)
    exact ⟨v, okResponse [] :: ps, streams_cons hsends hps, hpayload, hv.trans (Nat.add_assoc _ _ _)⟩

end

end Sys2Proof.Machine
end

section
/-! CERTIFICATES. The statements about the Streaming Filter (45_streaming R215 to R226). -/

namespace Sys2Proof.Machine

/-- Settles O46: the windows are not full after the chunk. -/
theorem fillPhaseAbsorbsSilently : Obligations.FillPhaseAbsorbsSilently := by
  intro s n d hs hp hd hlt
  rw [exec_streamTransform_of_room hs.memory hp hd (by omega) hlt, absorb_eq hs.memory (by omega),
    min_eq_left hlt.le]

/-- Settles O47: the engine runs on the full windows from accumulators of `+0.0`, as it does after ACC_ZERO. -/
theorem fullWindowsProduceOneBlock : Obligations.FullWindowsProduceOneBlock := by
  intro s n d hs hp hd hn hfull htotal
  obtain ⟨acc, hrun, hfits⟩ := processChannels_windowsAfter (d := d) hs hp hn hfull htotal
  have ⟨_, _, _, _, _, _, hlen, _⟩ := hs.memory
  obtain ⟨u, hu, rfl⟩ := execAll_accZero_rawTransform hp ((windowsAfter_length s _ d).trans hlen)
    (length_of_mem_windowsAfter hs.memory hn hfull) hrun
  obtain ⟨hleft, hright⟩ := clipped_fits hfits
  have hacc := afterBlock_acc u.acc (absorb n.toNat d s)
  refine ⟨_, u, interleave u.acc.clipped.left u.acc.clipped.right,
    exec_streamTransform_of_ok hs.memory hp hd hn hfull hrun, hu, ?_, congrArg Acc.left hacc, congrArg Acc.right hacc,
    ?_, fun j _ => ?_⟩
  · rw [afterBlock_frame, absorb_eq hs.memory hn, min_eq_right hfull]
    rfl
  · rw [interleave_length, hleft, hright, min_self]
  · simpa only [answered, hacc] using interleave_getElem? _ _ j (hleft.trans hright.symm)

/-- Settles O48: the chunk fills the windows exactly, so making room drops nothing. -/
theorem steadyStateIsOneBlockInOneBlockOut : Obligations.SteadyStateIsOneBlockInOneBlockOut := by
  intro s n d hs hp htotal hn hd havailable
  have hB := hs.blockSize_le hp
  obtain ⟨t, -, out, hexec, -, ht, -, -, hout, -⟩ :=
    fullWindowsProduceOneBlock s n d hs hp hd (by omega) (by omega) htotal
  have hdrop : s.available + n.toNat - s.fftLen = 0 := by omega
  refine ⟨t, okResponse out, hexec, ?_, okResponse_code out, hout, ?_, fun c w hw => ?_⟩
  · rw [ht]
    rfl
  · rw [ht]
  · rw [ht, windowsAfter, hdrop]
    simp [hw]

/-- Settles O49: the engine ends with the stage of the first channel that fails. -/
theorem streamingBackendFailureKeepsTheChunk : Obligations.StreamingBackendFailureKeepsTheChunk := by
  intro s n d c stage hs hp hd hn hfull ⟨hfails, hfirst⟩
  have ⟨_, _, _, _, _, _, hlen, _⟩ := hs.memory
  obtain ⟨st, hrun, rfl⟩ := processChannels_of_fails hs.memory (hs.blockSize_le hp) (windowsAfter s n.toNat d) 0 c
    (Acc.zeroed s.cfg.blockSize) (by rw [windowsAfter_length]; omega) (zeroed_fits _)
    (by simpa only [Nat.zero_add] using hfails) (by simpa only [Nat.zero_add] using hfirst)
  refine ⟨_, exec_streamTransform_of_backend hs.memory hp hd hn hfull hrun, ?_⟩
  rw [absorb_eq hs.memory hn, min_eq_right hfull]
  rfl

/-- Settles O51: a streamed word is what `clip` answers, and `clip` compares with the two ends of the range. -/
theorem streamingOutputIsClamped : Obligations.StreamingOutputIsClamped := by
  refine ⟨fun s t n d r h hr w hw => ?_, fun s t n d r h hr => streamTransform_payload_clipped h hr,
    fun v hv hlt => clip_of_fgt ?_, fun v hv hlt => clip_of_flt ?_, clip_of_fgt (by decide), clip_of_flt (by decide),
    fun v => clip_of_isNaN, fun v hv hle => ?_⟩
  · obtain ⟨v, rfl⟩ := streamTransform_payload_clipped h hr w hw
    exact clip_bounded v
  · rwa [(fgt_flt_iff_exactValue hv (by decide)).1, exactValue_plusOne]
  · rwa [(fgt_flt_iff_exactValue hv (by decide)).2, exactValue_minusOne]
  · obtain ⟨hgt, hlt⟩ := (abs_exactValue_le_one_iff hv).1 hle
    exact clip_of_inRange (isNaN_of_isFinite hv) hgt hlt

/-- Settles O52: the run of the chunks and the run of their frames end in one state but for the responses sent. -/
theorem chunkingDoesNotChangeTheStream : Obligations.ChunkingDoesNotChangeTheStream := by
  intro s chunks hs hp hroom htotal hfits
  obtain ⟨v, ps, qs, hps, hqs, hpayload⟩ := streams_chunks_and_frames ⟨hs, hp, hroom, htotal⟩ hfits
  exact ⟨v.withSent (s.hostOut ++ ps), v.withSent (s.hostOut ++ qs), ps.flatMap Response.payload, hps s.hostOut,
    hpayload ▸ hqs s.hostOut, rfl, rfl, rfl⟩

/-- Settles O53: from empty windows the frames of the chunks leave room for at least one more. -/
theorem noOutputBeforeTheWindowsAreFull : Obligations.NoOutputBeforeTheWindowsAreFull := by
  intro s chunks hs hp hempty hfits hlt
  obtain ⟨v, ps, hps, hpayload, hv⟩ := streams_of_room hs hp hfits (by omega)
  exact ⟨v.withSent (s.hostOut ++ ps), hpayload ▸ hps s.hostOut, hv.trans (by rw [hempty, Nat.zero_add])⟩

end Sys2Proof.Machine
end

section
/-! SUPPORT. What the command loop does with the next host event, and what the phase check refuses (46_system R241, R242). -/

namespace Sys2Proof.Machine

section
variable {s : State} {rest : List HostEvent}

/-- With no event the engine waits (R241, R275). -/
theorem step_of_no_event (h : s.hostIn = []) : step s = .next s := by
  unfold step
  rw [h]

/-- Interleaved packets have no meaning (R60). -/
theorem step_of_interleaved {ws : List Word} (h : s.hostIn = .interleaved ws :: rest) :
    step s = .refused .interleavedPackets := by
  unfold step
  rw [h]

/-- A packet that decodes is taken and executed (R241). -/
theorem step_of_decoded {p : Packet} {i : Instr} (h : s.hostIn = .command p :: rest) (hd : decode p = .ok i) :
    step s = exec i (s.takeEvent rest) := by
  unfold step
  rw [h]
  dsimp only
  rw [hd]

end

section
variable {s : State} {k : Result}

/-- What needs an instance is refused in phase EMPTY (R242, R268). -/
theorem require_ready_of_empty (hp : s.phase = .empty) :
    require (decide (s.phase = .ready)) (.badPhase s.phase) s k = .next (failedWith s 0x13 0) := by
  rw [hp]
  exact require_of_false rfl

/-- What needs that there is no instance is refused in phase READY (R242, R268). -/
theorem require_empty_of_ready (hp : s.phase = .ready) :
    require (decide (s.phase = .empty)) (.badPhase s.phase) s k = .next (failedWith s 0x13 1) := by
  rw [hp]
  exact require_of_false rfl

end

/-- A well-formed RESET passes its two checks, clears the engine and answers `OK` (R240). -/
theorem exec_reset (s : State) : exec (.reset 0 []) s = .next (answered s.clear []) := by
  rw [exec, execReset]
  exact require_of_true rfl (require_of_true rfl rfl)

end Sys2Proof.Machine
end

section
/-! CERTIFICATES. The statements about the system: the command loop, RESET and the phases (46_system R240 to R242). -/

namespace Sys2Proof.Machine

/-- Settles O6: the event taken is a packet, and the packet decodes. -/
theorem stepRunsTheDecodedInstruction : Obligations.StepRunsTheDecodedInstruction :=
  fun _ _ _ _ hin hd => step_of_decoded hin hd

/-- Settles O8: the two events that run no command. -/
theorem engineWaitsAndRefusesInterleavedPackets : Obligations.EngineWaitsAndRefusesInterleavedPackets :=
  ⟨fun _ hin => step_of_no_event hin, fun _ _ _ hin => step_of_interleaved hin⟩

/-- Settles O11: RESET and hardware reset clear the engine alike, and the two ports and the parameters are kept. -/
theorem resetCommandLeavesTheResetState : Obligations.ResetCommandLeavesTheResetState :=
  fun s => ⟨exec_reset s, rfl, rfl, rfl, rfl, rfl, rfl⟩

/-- Settles O16: each command checks the phase before its operands. -/
theorem commandsInTheWrongPhaseAreRefused : Obligations.CommandsInTheWrongPhaseAreRefused := by
  intro s a d
  refine ⟨fun hempty => ?_, fun hready => require_empty_of_ready hready⟩
  and_intros
  all_goals exact require_ready_of_empty hempty

end Sys2Proof.Machine
end

section
/-! SUPPORT. Which error each step of CONSTRUCT stops with, when the steps before it succeed (42_construct R152 to R159,
60_exceptions R254). -/

namespace Sys2Proof.Machine

/-! ### The steps that look at every channel -/

section
variable {c : Config} {map : List Position}

theorem exists_findMirror_of_mem {p : Position} (h : mirror c p ∈ map) : ∃ m, findMirror c map p = some m :=
  Option.ne_none_iff_exists'.1 (mt find_eq_none_iff.1 (not_not.2 h))

/-- The first channel whose mirror the map does not hold stops step 6 (R158). -/
theorem resolveMirrors_of_first_missing {p : Position} (hp : mirror c p ∉ map) :
    ∀ {todo : List Position} {i : Nat}, todo[i]? = some p →
      (∀ j q, j < i → todo[j]? = some q → mirror c q ∈ map) →
      resolveMirrors c map todo = .error (.asymmetricHrir (positionCode p))
  | [], _, hi, _ => nomatch hi
  | q :: todo, 0, hi, _ => by
    obtain rfl := Option.some.inj hi
    have hnone : findMirror c map q = none := find_eq_none_iff.2 hp
    simp only [resolveMirrors, hnone]
  | q :: todo, i + 1, hi, hbefore => by
    obtain ⟨m, hm⟩ := exists_findMirror_of_mem (hbefore 0 q i.succ_pos rfl)
    have ih := resolveMirrors_of_first_missing hp (todo := todo) hi fun j u hj hu =>
      hbefore (j + 1) u (Nat.succ_lt_succ hj) hu
    simp only [resolveMirrors, hm, ih]

end

section
variable {c : Config} {rows : List (List F32)} {frames n : Nat} {e : CoreError}

theorem initIr_eq_error {buf : List F32} (h : initIr c n buf = .error e) : e = .transformBackendFailure .initIr := by
  unfold initIr at h
  split at h
  · exact (Except.error.inj h).symm
  · cases h

/-- Step 7 stops only when the backend fails on an impulse (R159, R264). -/
theorem storeImpulses_eq_error : ∀ {ms : List Nat} {i : Nat}, storeImpulses c rows frames n i ms = .error e →
    e = .transformBackendFailure .initIr
  | [], _, h => nomatch h
  | _ :: ms, i, h => by
    unfold storeImpulses at h
    split at h
    next hl => exact initIr_eq_error (Except.error.inj h ▸ hl)
    next =>
      split at h
      next hr => exact initIr_eq_error (Except.error.inj h ▸ hr)
      next =>
        split at h
        next hrest => exact storeImpulses_eq_error (Except.error.inj h ▸ hrest)
        next => cases h

/-- An impulse that the backend cannot transform stops step 7 (R159): if the step ended well, the channel's slot would
hold the spectrum that there is not. -/
theorem storeImpulses_of_failed_transform {ms : List Nat} {j : Nat} (hj : j < ms.length)
    (hnone : bkFwd c n (impulse rows frames n j) = none) :
    storeImpulses c rows frames n 0 ms = .error (.transformBackendFailure .initIr) := by
  cases hstore : storeImpulses c rows frames n 0 ms with
  | error e => rw [storeImpulses_eq_error hstore]
  | ok ir =>
    obtain ⟨hlen, -⟩ := storeImpulses_lengths hstore
    obtain ⟨hslot, -⟩ := storeImpulses_slots hstore (List.getElem?_eq_getElem hj)
    rw [Nat.zero_add, hnone, List.getElem?_eq_none_iff] at hslot
    omega

end

/-! ### The steps in order: an error of one is the error of CONSTRUCT, when the steps before it succeed -/

theorem fromPositions_of_lt {pos : List Position} (h : maxChannels < pos.length) :
    fromPositions pos = .error (.tooManyChannels pos.length) := if_pos h

theorem engineNew_of_fits {c : Config} {channels n : Nat} (hmax : n ≤ c.maxFftLen)
    (hplan : bkPlan c n channels = true) : engineNew c channels n = .ok () := if_pos ⟨hmax, hplan⟩

theorem engineNew_of_no_plan {c : Config} {channels n : Nat} (h : c.maxFftLen < n ∨ bkPlan c n channels = false) :
    engineNew c channels n = .error (.transformBackendFailure .new) := by
  refine if_neg fun ⟨hmax, hplan⟩ => ?_
  exact h.elim (by omega) fun hfalse => Bool.false_ne_true (hfalse.symm.trans hplan)

section
variable {c : Config} {r : Recording} {rate : Word} {frames : Nat} {rows : List (List F32)} {ms : List Nat}
  {e : CoreError}

theorem buildInstance_of_checkFormat (h : checkFormat r = .error e) : buildInstance c r = .error e := by
  simp only [buildInstance, h, bind, Except.bind]

variable (hformat : checkFormat r = .ok ())
include hformat

theorem buildInstance_of_resampleStep (h : resampleStep c r = .error e) : buildInstance c r = .error e := by
  simp only [buildInstance, hformat, h, bind, Except.bind]

variable (hresample : resampleStep c r = .ok ({ r with frames := frames, rows := rows }, rate))
include hresample

theorem buildInstance_of_fromPositions (h : fromPositions r.positions = .error e) : buildInstance c r = .error e := by
  simp only [buildInstance, hformat, hresample, h, bind, Except.bind]

variable (hmap : fromPositions r.positions = .ok r.positions)
include hmap

theorem buildInstance_of_engineNew (h : engineNew c r.positions.length (planFftLen c frames) = .error e) :
    buildInstance c r = .error e := by
  simp only [buildInstance, hformat, hresample, hmap, h, bind, Except.bind]

variable (hnew : engineNew c r.positions.length (planFftLen c frames) = .ok ())
include hnew

theorem buildInstance_of_resolveMirrors (h : resolveMirrors c r.positions r.positions = .error e) :
    buildInstance c r = .error e := by
  simp only [buildInstance, hformat, hresample, hmap, hnew, h, bind, Except.bind]

theorem buildInstance_of_storeImpulses (hmirrors : resolveMirrors c r.positions r.positions = .ok ms)
    (h : storeImpulses c (normalise rows frames) frames (planFftLen c frames) 0 ms = .error e) :
    buildInstance c r = .error e := by
  simp only [buildInstance, hformat, hresample, hmap, hnew, hmirrors, h, bind, Except.bind]

end

/-- A packet that decodes, and one of whose steps fails, has been through the scratch buffer (R161). -/
theorem exec_construct_of_failed_step {s : State} {a : Arg} {d : List Word} {r : Recording} {e : CoreError}
    (hp : s.phase = .empty) (hr : decodeRecording s.cfg a.toNat d = .ok r) (hb : buildInstance s.cfg r = .error e) :
    exec (.construct a d) s = .next (failedWith s.loseScratch (errorCode e) (errorInfo e)) := by
  refine require_of_true (decide_eq_true hp) ?_
  simp only [hr, hb]
  rfl

end Sys2Proof.Machine
end

section
/-! SUPPORT. The error that an undecodable packet takes, and information words made of a packet's fields (60_exceptions
R260, R265). -/

namespace Sys2Proof.Machine

/-- The information word of `UnsupportedFormat`, as the number it stands for (R260). -/
theorem errorInfo_unsupportedFormat (enc bits : BitVec 8) :
    errorInfo (.unsupportedFormat enc bits) = BitVec.ofNat 32 (enc.toNat * 256 + bits.toNat) := by
  rw [← errorInfo_unsupportedFormat_toNat, BitVec.ofNat_toNat, BitVec.setWidth_eq]

/-- The information word of `BadOpcode` is the top byte of the header (R265, R71). -/
theorem errorInfo_badOpcode_headerOpc (h : Word) :
    errorInfo (.badOpcode (headerOpc h)) = BitVec.ofNat 32 (h.toNat / 2 ^ 24) := by
  rw [← headerOpc_toNat]
  exact (BitVec.ofNat_toNat 32 (headerOpc h)).symm

/-- Taking an error changes the latch and adds the one response word (R253). -/
theorem raiseError_eq_failedWith (e : CoreError) (s : State) :
    raiseError e s = .next (failedWith s (errorCode e) (errorInfo e)) := rfl

/-- A packet that does not decode is taken and answered with `BadOpcode`, whatever the phase (R265). -/
theorem step_of_undecoded {s : State} {p : Packet} {rest : List HostEvent} {e : DecodeError}
    (h : s.hostIn = .command p :: rest) (hd : decode p = .error e) :
    step s = raiseError (.badOpcode (headerOpc p.header)) (s.takeEvent rest) := by
  unfold step
  rw [h]
  dsimp only
  rw [hd]

end Sys2Proof.Machine
end

section
/-! CERTIFICATES. The statements about the errors (60_exceptions R250 to R269). -/

namespace Sys2Proof.Machine

/-- Settles O37: the packet decodes to its operands, and each step in turn stops with its error when the steps before
it have succeeded. -/
theorem constructStepsFailInOrder : Obligations.ConstructStepsFailInOrder := by
  intro s enc bits src dst rate pos data rows l frames n hp hlen hrow hl hpos hassigned hw hn failsWith
  obtain rfl : n = planFftLen s.cfg frames := hn
  have hdecode : decodeRecording s.cfg (BitVec.ofNat 24 l).toNat (constructPayload enc bits src dst pos data) =
      .ok ⟨enc, bits, src, dst, pos, l, data⟩ := by
    rw [BitVec.toNat_ofNat, Nat.mod_eq_of_lt hl]
    exact decodeRecording_constructPayload hlen hrow hpos hassigned
  have hfails : ∀ {e}, buildInstance s.cfg _ = .error e → failsWith (errorCode e) (errorInfo e) :=
    fun hb => ⟨_, exec_construct_of_failed_step hp hdecode hb, rfl⟩
  by_cases hbad : ¬(enc = 1 ∧ bits = 32)
  · rw [if_pos hbad, ← errorInfo_unsupportedFormat]
    exact hfails (buildInstance_of_checkFormat (if_neg hbad))
  have hformat : checkFormat ⟨enc, bits, src, dst, pos, l, data⟩ = .ok () := if_pos (not_not.1 hbad)
  rw [if_neg hbad]
  split_ifs with hrate hmany hcap
  · obtain ⟨h0, hne, hc⟩ := hrate
    exact hfails (buildInstance_of_resampleStep hformat (resampleStep_unavailable h0 hne hc))
  all_goals
    have hresampler : dst = 0 ∨ dst = src ∨ s.cfg.hasResampler = true := by
      rw [← Bool.not_eq_false]
      tauto
    have hresample := resampleStep_working (r := ⟨enc, bits, src, dst, pos, l, data⟩) hresampler hw
  · exact hfails (buildInstance_of_fromPositions hformat hresample (fromPositions_of_lt hmany))
  all_goals have hmap := fromPositions_of_le (Nat.not_lt.1 hmany)
  · exact hfails (buildInstance_of_engineNew hformat hresample hmap (engineNew_of_no_plan hcap))
  · obtain ⟨hmax, hplan⟩ := not_or.1 hcap
    have hnew := engineNew_of_fits (Nat.not_lt.1 hmax) (Bool.not_eq_false _ ▸ hplan)
    refine ⟨fun i p hi hp hbefore => ?_, fun hmirror i hi hnone => ?_⟩
    · exact hfails (buildInstance_of_resolveMirrors hformat hresample hmap hnew
        (resolveMirrors_of_first_missing hp hi hbefore))
    · obtain ⟨ms, hms, -⟩ := resolveMirrors_of_mem hmirror
      rw [← impulse_of_rows (normalise_row_length rows frames (hw.shape hrow).2)] at hnone
      exact hfails (buildInstance_of_storeImpulses hformat hresample hmap hnew hms
        (storeImpulses_of_failed_transform (by rwa [resolveMirrors_length hms]) hnone))

/-- Settles O7: the packet does not decode, and the step takes it and raises `BadOpcode`. -/
theorem unassignedOpcodeAnswersBadOpcode : Obligations.UnassignedOpcodeAnswersBadOpcode := by
  intro s p rest hin hopc
  have hd := decode_eq_error.2 ⟨(unassigned_iff _).2 ((headerOpc_toNat p.header).symm ▸ hopc), rfl⟩
  rw [step_of_undecoded hin hd, raiseError_eq_failedWith, errorInfo_badOpcode_headerOpc]
  rfl

/-- Settles O12: the status word has the code above the low 24 bits of the information word. -/
theorem takingAnErrorLatchesAndAnswersOneWord : Obligations.TakingAnErrorLatchesAndAnswersOneWord := by
  intro e s
  refine ⟨statusWord (errorCode e) ((errorInfo e).setWidth 24), ?_, raiseError_eq e s⟩
  rw [statusWord, append_toNat, BitVec.toNat_setWidth]

/-- Settles O50: the checks of phase and length pass, and the check of the chunk's size fails. -/
theorem oversizedChunkIsRefused : Obligations.OversizedChunkIsRefused := fun _ _ _ hp hd hn =>
  require_of_true (decide_eq_true hp) (require_of_true (decide_eq_true hd)
    (require_of_false (decide_eq_false (Nat.not_le.2 hn))))

end Sys2Proof.Machine
end

section
/-! SUPPORT. What the command loop does with a hardware reset (70_reset_and_hazards R280). -/

namespace Sys2Proof.Machine

/-- A hardware reset is taken in every state and discards the words of the packet it cuts short (R280). -/
theorem step_of_hardReset {s : State} {discarded : List Word} {rest : List HostEvent}
    (h : s.hostIn = .hardReset discarded :: rest) : step s = .next (hardwareReset (s.takeEvent rest)) := by
  unfold step
  rw [h]

end Sys2Proof.Machine
end

section
/-! CERTIFICATES. The statement about hardware reset (70_reset_and_hazards R280). -/

namespace Sys2Proof.Machine

/-- Settles O10: the step takes the event and resets; what the reset clears and keeps is the half of O11 about
hardware reset, and taking the event touches neither the parameters nor the response port. -/
theorem hardwareResetClearsTheEngine : Obligations.HardwareResetClearsTheEngine := by
  intro s discarded rest hin
  obtain ⟨-, hphase, herr, hinfo, hcfg, hostIn, hostOut⟩ := resetCommandLeavesTheResetState (s.takeEvent rest)
  exact ⟨hardwareReset (s.takeEvent rest), step_of_hardReset hin, hphase, herr, hinfo, hcfg, hostIn, hostOut⟩

end Sys2Proof.Machine
end
